-- ==== Sys2Proof/Word.lean ====
section
/-!
DEFINITION. The bit vector types of the SPU: what the manual treats as bits (spec/00_scope.md R15).
-/

namespace Sys2Proof

/-- Eight bits: a byte slot, a byte of local storage. -/
abbrev Byte := BitVec 8

/-- Sixteen bits: a halfword slot. -/
abbrev Half := BitVec 16

/-- Thirty-two bits: a word slot, an address, an instruction word. -/
abbrev Word := BitVec 32

/-- Sixty-four bits: a doubleword slot. -/
abbrev Dword := BitVec 64

/-- One hundred and twenty-eight bits: a general register, a quadword of local storage (R22). -/
abbrev Quad := BitVec 128

/-- A general register number, the fields RT, RA, RB, RC (R17, R22); every value 0 to 127 is one. -/
abbrev Reg := BitVec 7

end Sys2Proof
end

