-- ==== Sys2Proof/Syntax.lean ====
section
/-!
DEFINITION. The instructions: one constructor per row of spec/opcode_table.json, in the table's order
(spec/30_encoding.md R106). A constructor carries the operands in the order of the assembler syntax (R110),
each as the field of the instruction word holds it (R17); a feature bit is a Bool. Reserved fields (R103) and
the reserved RT position of the halts are not kept; a false target named by the syntax or the opcode table
(`nop`, `fscrwr`, `stopd`) is.
-/

namespace Sys2Proof

/-- An SPU instruction (R106). -/
inductive Instr where
  -- Memory load and store, generate controls (spec/40_load_store.md)
  /-- Load Quadword (d-form) (R131). -/
  | lqd (rt ra : Reg) (i10 : BitVec 10)
  /-- Load Quadword (x-form) (R132). -/
  | lqx (rt ra rb : Reg)
  /-- Load Quadword (a-form) (R133). -/
  | lqa (rt : Reg) (i16 : BitVec 16)
  /-- Load Quadword Instruction Relative (a-form) (R134). -/
  | lqr (rt : Reg) (i16 : BitVec 16)
  /-- Store Quadword (d-form) (R135). -/
  | stqd (rt ra : Reg) (i10 : BitVec 10)
  /-- Store Quadword (x-form) (R136). -/
  | stqx (rt ra rb : Reg)
  /-- Store Quadword (a-form) (R137). -/
  | stqa (rt : Reg) (i16 : BitVec 16)
  /-- Store Quadword Instruction Relative (a-form) (R138). -/
  | stqr (rt : Reg) (i16 : BitVec 16)
  /-- Generate Controls for Byte Insertion (d-form) (R140). -/
  | cbd (rt ra : Reg) (i7 : BitVec 7)
  /-- Generate Controls for Byte Insertion (x-form) (R141). -/
  | cbx (rt ra rb : Reg)
  /-- Generate Controls for Halfword Insertion (d-form) (R142). -/
  | chd (rt ra : Reg) (i7 : BitVec 7)
  /-- Generate Controls for Halfword Insertion (x-form) (R143). -/
  | chx (rt ra rb : Reg)
  /-- Generate Controls for Word Insertion (d-form) (R144). -/
  | cwd (rt ra : Reg) (i7 : BitVec 7)
  /-- Generate Controls for Word Insertion (x-form) (R145). -/
  | cwx (rt ra rb : Reg)
  /-- Generate Controls for Doubleword Insertion (d-form) (R146). -/
  | cdd (rt ra : Reg) (i7 : BitVec 7)
  /-- Generate Controls for Doubleword Insertion (x-form) (R147). -/
  | cdx (rt ra rb : Reg)
  -- Constant formation (spec/41_constant_formation.md)
  /-- Immediate Load Halfword (R161). -/
  | ilh (rt : Reg) (i16 : BitVec 16)
  /-- Immediate Load Halfword Upper (R162). -/
  | ilhu (rt : Reg) (i16 : BitVec 16)
  /-- Immediate Load Word (R163). -/
  | il (rt : Reg) (i16 : BitVec 16)
  /-- Immediate Load Address (R164). -/
  | ila (rt : Reg) (i18 : BitVec 18)
  /-- Immediate Or Halfword Lower (R165). -/
  | iohl (rt : Reg) (i16 : BitVec 16)
  /-- Form Select Mask for Bytes Immediate (R166). -/
  | fsmbi (rt : Reg) (i16 : BitVec 16)
  -- Integer (spec/42_integer.md)
  /-- Add Halfword (R171). -/
  | ah (rt ra rb : Reg)
  /-- Add Halfword Immediate (R172). -/
  | ahi (rt ra : Reg) (i10 : BitVec 10)
  /-- Add Word (R173). -/
  | a (rt ra rb : Reg)
  /-- Add Word Immediate (R174). -/
  | ai (rt ra : Reg) (i10 : BitVec 10)
  /-- Subtract From Halfword (R175). -/
  | sfh (rt ra rb : Reg)
  /-- Subtract From Halfword Immediate (R176). -/
  | sfhi (rt ra : Reg) (i10 : BitVec 10)
  /-- Subtract From Word (R177). -/
  | sf (rt ra rb : Reg)
  /-- Subtract From Word Immediate (R178). -/
  | sfi (rt ra : Reg) (i10 : BitVec 10)
  /-- Add Extended (R179). -/
  | addx (rt ra rb : Reg)
  /-- Carry Generate (R180). -/
  | cg (rt ra rb : Reg)
  /-- Carry Generate Extended (R181). -/
  | cgx (rt ra rb : Reg)
  /-- Subtract From Extended (R182). -/
  | sfx (rt ra rb : Reg)
  /-- Borrow Generate (R183). -/
  | bg (rt ra rb : Reg)
  /-- Borrow Generate Extended (R184). -/
  | bgx (rt ra rb : Reg)
  /-- Multiply (R185). -/
  | mpy (rt ra rb : Reg)
  /-- Multiply Unsigned (R186). -/
  | mpyu (rt ra rb : Reg)
  /-- Multiply Immediate (R187). -/
  | mpyi (rt ra : Reg) (i10 : BitVec 10)
  /-- Multiply Unsigned Immediate (R188). -/
  | mpyui (rt ra : Reg) (i10 : BitVec 10)
  /-- Multiply and Add (R189). -/
  | mpya (rt ra rb rc : Reg)
  /-- Multiply High (R190). -/
  | mpyh (rt ra rb : Reg)
  /-- Multiply and Shift Right (R191). -/
  | mpys (rt ra rb : Reg)
  /-- Multiply High High (R192). -/
  | mpyhh (rt ra rb : Reg)
  /-- Multiply High High and Add (R193). -/
  | mpyhha (rt ra rb : Reg)
  /-- Multiply High High Unsigned (R194). -/
  | mpyhhu (rt ra rb : Reg)
  /-- Multiply High High Unsigned and Add (R195). -/
  | mpyhhau (rt ra rb : Reg)
  /-- Count Leading Zeros (R196). -/
  | clz (rt ra : Reg)
  /-- Count Ones in Bytes (R197). -/
  | cntb (rt ra : Reg)
  /-- Form Select Mask for Bytes (R198). -/
  | fsmb (rt ra : Reg)
  /-- Form Select Mask for Halfwords (R199). -/
  | fsmh (rt ra : Reg)
  /-- Form Select Mask for Words (R200). -/
  | fsm (rt ra : Reg)
  /-- Gather Bits from Bytes (R201). -/
  | gbb (rt ra : Reg)
  /-- Gather Bits from Halfwords (R202). -/
  | gbh (rt ra : Reg)
  /-- Gather Bits from Words (R203). -/
  | gb (rt ra : Reg)
  /-- Average Bytes (R204). -/
  | avgb (rt ra rb : Reg)
  /-- Absolute Differences of Bytes (R205). -/
  | absdb (rt ra rb : Reg)
  /-- Sum Bytes into Halfwords (R206). -/
  | sumb (rt ra rb : Reg)
  /-- Extend Sign Byte to Halfword (R207). -/
  | xsbh (rt ra : Reg)
  /-- Extend Sign Halfword to Word (R208). -/
  | xshw (rt ra : Reg)
  /-- Extend Sign Word to Doubleword (R209). -/
  | xswd (rt ra : Reg)
  -- Logical (spec/43_logical.md)
  /-- And (R231). -/
  | and (rt ra rb : Reg)
  /-- And with Complement (R232). -/
  | andc (rt ra rb : Reg)
  /-- And Byte Immediate (R233). -/
  | andbi (rt ra : Reg) (i10 : BitVec 10)
  /-- And Halfword Immediate (R234). -/
  | andhi (rt ra : Reg) (i10 : BitVec 10)
  /-- And Word Immediate (R235). -/
  | andi (rt ra : Reg) (i10 : BitVec 10)
  /-- Or (R236). -/
  | or (rt ra rb : Reg)
  /-- Or with Complement (R237). -/
  | orc (rt ra rb : Reg)
  /-- Or Byte Immediate (R238). -/
  | orbi (rt ra : Reg) (i10 : BitVec 10)
  /-- Or Halfword Immediate (R239). -/
  | orhi (rt ra : Reg) (i10 : BitVec 10)
  /-- Or Word Immediate (R240). -/
  | ori (rt ra : Reg) (i10 : BitVec 10)
  /-- Or Across (R241). -/
  | orx (rt ra : Reg)
  /-- Exclusive Or (R242). -/
  | xor (rt ra rb : Reg)
  /-- Exclusive Or Byte Immediate (R243). -/
  | xorbi (rt ra : Reg) (i10 : BitVec 10)
  /-- Exclusive Or Halfword Immediate (R244). -/
  | xorhi (rt ra : Reg) (i10 : BitVec 10)
  /-- Exclusive Or Word Immediate (R245). -/
  | xori (rt ra : Reg) (i10 : BitVec 10)
  /-- Nand (R246). -/
  | nand (rt ra rb : Reg)
  /-- Nor (R247). -/
  | nor (rt ra rb : Reg)
  /-- Equivalent (R248). -/
  | eqv (rt ra rb : Reg)
  /-- Select Bits (R249). -/
  | selb (rt ra rb rc : Reg)
  /-- Shuffle Bytes (R250). -/
  | shufb (rt ra rb rc : Reg)
  -- Shift and rotate (spec/44_shift_rotate.md)
  /-- Shift Left Halfword (R261). -/
  | shlh (rt ra rb : Reg)
  /-- Shift Left Halfword Immediate (R262). -/
  | shlhi (rt ra : Reg) (i7 : BitVec 7)
  /-- Shift Left Word (R263). -/
  | shl (rt ra rb : Reg)
  /-- Shift Left Word Immediate (R264). -/
  | shli (rt ra : Reg) (i7 : BitVec 7)
  /-- Shift Left Quadword by Bits (R265). -/
  | shlqbi (rt ra rb : Reg)
  /-- Shift Left Quadword by Bits Immediate (R266). -/
  | shlqbii (rt ra : Reg) (i7 : BitVec 7)
  /-- Shift Left Quadword by Bytes (R267). -/
  | shlqby (rt ra rb : Reg)
  /-- Shift Left Quadword by Bytes Immediate (R268). -/
  | shlqbyi (rt ra : Reg) (i7 : BitVec 7)
  /-- Shift Left Quadword by Bytes from Bit Shift Count (R269). -/
  | shlqbybi (rt ra rb : Reg)
  /-- Rotate Halfword (R270). -/
  | roth (rt ra rb : Reg)
  /-- Rotate Halfword Immediate (R271). -/
  | rothi (rt ra : Reg) (i7 : BitVec 7)
  /-- Rotate Word (R272). -/
  | rot (rt ra rb : Reg)
  /-- Rotate Word Immediate (R273). -/
  | roti (rt ra : Reg) (i7 : BitVec 7)
  /-- Rotate Quadword by Bytes (R274). -/
  | rotqby (rt ra rb : Reg)
  /-- Rotate Quadword by Bytes Immediate (R275). -/
  | rotqbyi (rt ra : Reg) (i7 : BitVec 7)
  /-- Rotate Quadword by Bytes from Bit Shift Count (R276). -/
  | rotqbybi (rt ra rb : Reg)
  /-- Rotate Quadword by Bits (R277). -/
  | rotqbi (rt ra rb : Reg)
  /-- Rotate Quadword by Bits Immediate (R278). -/
  | rotqbii (rt ra : Reg) (i7 : BitVec 7)
  /-- Rotate and Mask Halfword (R279). -/
  | rothm (rt ra rb : Reg)
  /-- Rotate and Mask Halfword Immediate (R280). -/
  | rothmi (rt ra : Reg) (i7 : BitVec 7)
  /-- Rotate and Mask Word (R281). -/
  | rotm (rt ra rb : Reg)
  /-- Rotate and Mask Word Immediate (R282). -/
  | rotmi (rt ra : Reg) (i7 : BitVec 7)
  /-- Rotate and Mask Quadword by Bytes (R283). -/
  | rotqmby (rt ra rb : Reg)
  /-- Rotate and Mask Quadword by Bytes Immediate (R284). -/
  | rotqmbyi (rt ra : Reg) (i7 : BitVec 7)
  /-- Rotate and Mask Quadword Bytes from Bit Shift Count (R285). -/
  | rotqmbybi (rt ra rb : Reg)
  /-- Rotate and Mask Quadword by Bits (R286). -/
  | rotqmbi (rt ra rb : Reg)
  /-- Rotate and Mask Quadword by Bits Immediate (R287). -/
  | rotqmbii (rt ra : Reg) (i7 : BitVec 7)
  /-- Rotate and Mask Algebraic Halfword (R288). -/
  | rotmah (rt ra rb : Reg)
  /-- Rotate and Mask Algebraic Halfword Immediate (R289). -/
  | rotmahi (rt ra : Reg) (i7 : BitVec 7)
  /-- Rotate and Mask Algebraic Word (R290). -/
  | rotma (rt ra rb : Reg)
  /-- Rotate and Mask Algebraic Word Immediate (R291). -/
  | rotmai (rt ra : Reg) (i7 : BitVec 7)
  -- Halt, compare, branch (spec/45_compare_branch_halt.md)
  /-- Halt If Equal (R312). -/
  | heq (ra rb : Reg)
  /-- Halt If Equal Immediate (R313). -/
  | heqi (ra : Reg) (i10 : BitVec 10)
  /-- Halt If Greater Than (R314). -/
  | hgt (ra rb : Reg)
  /-- Halt If Greater Than Immediate (R315). -/
  | hgti (ra : Reg) (i10 : BitVec 10)
  /-- Halt If Logically Greater Than (R316). -/
  | hlgt (ra rb : Reg)
  /-- Halt If Logically Greater Than Immediate (R317). -/
  | hlgti (ra : Reg) (i10 : BitVec 10)
  /-- Compare Equal Byte (R319). -/
  | ceqb (rt ra rb : Reg)
  /-- Compare Equal Byte Immediate (R320). -/
  | ceqbi (rt ra : Reg) (i10 : BitVec 10)
  /-- Compare Equal Halfword (R321). -/
  | ceqh (rt ra rb : Reg)
  /-- Compare Equal Halfword Immediate (R322). -/
  | ceqhi (rt ra : Reg) (i10 : BitVec 10)
  /-- Compare Equal Word (R323). -/
  | ceq (rt ra rb : Reg)
  /-- Compare Equal Word Immediate (R324). -/
  | ceqi (rt ra : Reg) (i10 : BitVec 10)
  /-- Compare Greater Than Byte (R325). -/
  | cgtb (rt ra rb : Reg)
  /-- Compare Greater Than Byte Immediate (R326). -/
  | cgtbi (rt ra : Reg) (i10 : BitVec 10)
  /-- Compare Greater Than Halfword (R327). -/
  | cgth (rt ra rb : Reg)
  /-- Compare Greater Than Halfword Immediate (R328). -/
  | cgthi (rt ra : Reg) (i10 : BitVec 10)
  /-- Compare Greater Than Word (R329). -/
  | cgt (rt ra rb : Reg)
  /-- Compare Greater Than Word Immediate (R330). -/
  | cgti (rt ra : Reg) (i10 : BitVec 10)
  /-- Compare Logical Greater Than Byte (R331). -/
  | clgtb (rt ra rb : Reg)
  /-- Compare Logical Greater Than Byte Immediate (R332). -/
  | clgtbi (rt ra : Reg) (i10 : BitVec 10)
  /-- Compare Logical Greater Than Halfword (R333). -/
  | clgth (rt ra rb : Reg)
  /-- Compare Logical Greater Than Halfword Immediate (R334). -/
  | clgthi (rt ra : Reg) (i10 : BitVec 10)
  /-- Compare Logical Greater Than Word (R335). -/
  | clgt (rt ra rb : Reg)
  /-- Compare Logical Greater Than Word Immediate (R336). -/
  | clgti (rt ra : Reg) (i10 : BitVec 10)
  /-- Branch Relative (R349). -/
  | br (i16 : BitVec 16)
  /-- Branch Absolute (R350). -/
  | bra (i16 : BitVec 16)
  /-- Branch Relative and Set Link (R351). -/
  | brsl (rt : Reg) (i16 : BitVec 16)
  /-- Branch Absolute and Set Link (R352). -/
  | brasl (rt : Reg) (i16 : BitVec 16)
  /-- Branch Indirect (R353). -/
  | bi (ra : Reg) (d e : Bool)
  /-- Interrupt Return (R354). -/
  | iret (ra : Reg) (d e : Bool)
  /-- Branch Indirect and Set Link if External Data (R355). -/
  | bisled (rt ra : Reg) (d e : Bool)
  /-- Branch Indirect and Set Link (R356). -/
  | bisl (rt ra : Reg) (d e : Bool)
  /-- Branch If Not Zero Word (R357). -/
  | brnz (rt : Reg) (i16 : BitVec 16)
  /-- Branch If Zero Word (R358). -/
  | brz (rt : Reg) (i16 : BitVec 16)
  /-- Branch If Not Zero Halfword (R359). -/
  | brhnz (rt : Reg) (i16 : BitVec 16)
  /-- Branch If Zero Halfword (R360). -/
  | brhz (rt : Reg) (i16 : BitVec 16)
  /-- Branch Indirect If Zero (R361). -/
  | biz (rt ra : Reg) (d e : Bool)
  /-- Branch Indirect If Not Zero (R362). -/
  | binz (rt ra : Reg) (d e : Bool)
  /-- Branch Indirect If Zero Halfword (R363). -/
  | bihz (rt ra : Reg) (d e : Bool)
  /-- Branch Indirect If Not Zero Halfword (R364). -/
  | bihnz (rt ra : Reg) (d e : Bool)
  -- Branch hints (spec/46_branch_hints.md)
  /-- Hint for Branch (r-form) (R381). -/
  | hbr (roh : BitVec 2) (rol : BitVec 7) (ra : Reg) (p : Bool)
  /-- Hint for Branch (a-form) (R382). -/
  | hbra (roh : BitVec 2) (rol : BitVec 7) (i16 : BitVec 16)
  /-- Hint for Branch Relative (R383). -/
  | hbrr (roh : BitVec 2) (rol : BitVec 7) (i16 : BitVec 16)
  -- Floating point (spec/47_floating_point.md)
  /-- Floating Add (R410). -/
  | fa (rt ra rb : Reg)
  /-- Double Floating Add (R411). -/
  | dfa (rt ra rb : Reg)
  /-- Floating Subtract (R412). -/
  | fs (rt ra rb : Reg)
  /-- Double Floating Subtract (R413). -/
  | dfs (rt ra rb : Reg)
  /-- Floating Multiply (R414). -/
  | fm (rt ra rb : Reg)
  /-- Double Floating Multiply (R415). -/
  | dfm (rt ra rb : Reg)
  /-- Floating Multiply and Add (R416). -/
  | fma (rt ra rb rc : Reg)
  /-- Double Floating Multiply and Add (R417). -/
  | dfma (rt ra rb : Reg)
  /-- Floating Negative Multiply and Subtract (R418). -/
  | fnms (rt ra rb rc : Reg)
  /-- Double Floating Negative Multiply and Subtract (R419). -/
  | dfnms (rt ra rb : Reg)
  /-- Floating Multiply and Subtract (R420). -/
  | fms (rt ra rb rc : Reg)
  /-- Double Floating Multiply and Subtract (R421). -/
  | dfms (rt ra rb : Reg)
  /-- Double Floating Negative Multiply and Add (R422). -/
  | dfnma (rt ra rb : Reg)
  /-- Floating Reciprocal Estimate (R423). -/
  | frest (rt ra : Reg)
  /-- Floating Reciprocal Absolute Square Root Estimate (R424). -/
  | frsqest (rt ra : Reg)
  /-- Floating Interpolate (R425). -/
  | fi (rt ra rb : Reg)
  /-- Convert Signed Integer to Floating (R426). -/
  | csflt (rt ra : Reg) (i8 : BitVec 8)
  /-- Convert Floating to Signed Integer (R427). -/
  | cflts (rt ra : Reg) (i8 : BitVec 8)
  /-- Convert Unsigned Integer to Floating (R428). -/
  | cuflt (rt ra : Reg) (i8 : BitVec 8)
  /-- Convert Floating to Unsigned Integer (R429). -/
  | cfltu (rt ra : Reg) (i8 : BitVec 8)
  /-- Floating Round Double to Single (R430). -/
  | frds (rt ra : Reg)
  /-- Floating Extend Single to Double (R431). -/
  | fesd (rt ra : Reg)
  /-- Double Floating Compare Equal (optional) (R432). -/
  | dfceq (rt ra rb : Reg)
  /-- Double Floating Compare Magnitude Equal (optional) (R433). -/
  | dfcmeq (rt ra rb : Reg)
  /-- Double Floating Compare Greater Than (optional) (R434). -/
  | dfcgt (rt ra rb : Reg)
  /-- Double Floating Compare Magnitude Greater Than (optional) (R435). -/
  | dfcmgt (rt ra rb : Reg)
  /-- Double Floating Test Special Value (optional) (R436). -/
  | dftsv (rt ra : Reg) (i7 : BitVec 7)
  /-- Floating Compare Equal (R437). -/
  | fceq (rt ra rb : Reg)
  /-- Floating Compare Magnitude Equal (R438). -/
  | fcmeq (rt ra rb : Reg)
  /-- Floating Compare Greater Than (R439). -/
  | fcgt (rt ra rb : Reg)
  /-- Floating Compare Magnitude Greater Than (R440). -/
  | fcmgt (rt ra rb : Reg)
  /-- Floating-Point Status and Control Register Write (R441). -/
  | fscrwr (ra rt : Reg)
  /-- Floating-Point Status and Control Register Read (R442). -/
  | fscrrd (rt : Reg)
  -- Control and channel (spec/48_control_channel.md)
  /-- Stop and Signal (R470). -/
  | stop (sig : BitVec 14)
  /-- Stop and Signal with Dependencies (R471). -/
  | stopd (rt ra rb : Reg)
  /-- No Operation (Load) (R472). -/
  | lnop
  /-- No Operation (Execute) (R473). -/
  | nop (rt : Reg)
  /-- Synchronize (R474). -/
  | sync (c : Bool)
  /-- Synchronize Data (R475). -/
  | dsync
  /-- Move from Special-Purpose Register (R476). -/
  | mfspr (rt : Reg) (sa : BitVec 7)
  /-- Move to Special-Purpose Register (R477). -/
  | mtspr (sa : BitVec 7) (rt : Reg)
  /-- Read Channel (R480). -/
  | rdch (rt : Reg) (ca : BitVec 7)
  /-- Read Channel Count (R481). -/
  | rchcnt (rt : Reg) (ca : BitVec 7)
  /-- Write Channel (R482). -/
  | wrch (ca : BitVec 7) (rt : Reg)
  deriving DecidableEq, Repr

end Sys2Proof
end

