-- ==== Sys2Proof/Decode.lean ====
section
/-!
DEFINITION. The decoder, total on any bytes, and the encoder (spec/30_encoding.md).

Opcode values, the RRR layout, the positions of the immediates and of the feature bits are the spec's, which
marks them as general knowledge: PRESUMED (log entry 1), unsafe. Reserved fields are ignored: DESIGN CHOICE
(log entry 2), the spec's decision D3.
-/

namespace Sys2Proof

/-- Why bytes are no instruction. -/
inductive DecodeError where
  /-- The word matches no row of the opcode table (R105). -/
  | unassigned (iw : Word)
  /-- Fewer than four bytes: every instruction is 32 bits long (R90). -/
  | truncated (bytes : Nat)
  deriving DecidableEq, Repr

/-- RT of every layout but RRR: bits [6:0] (R91). -/
def fRT (w : Word) : Reg := w.extractLsb' 0 7
/-- RT of the RRR layout: bits [27:21] (R92). -/
def fRT4 (w : Word) : Reg := w.extractLsb' 21 7
/-- RC of the RRR layout: bits [6:0] (R92). -/
def fRC (w : Word) : Reg := w.extractLsb' 0 7
/-- RA: bits [13:7] (R91). -/
def fRA (w : Word) : Reg := w.extractLsb' 7 7
/-- RB: bits [20:14] (R91). -/
def fRB (w : Word) : Reg := w.extractLsb' 14 7
/-- SA, the special-purpose register number, in the RA position (R101). -/
def fSA (w : Word) : BitVec 7 := w.extractLsb' 7 7
/-- CA, the channel number, in the RA position (R101). -/
def fCA (w : Word) : BitVec 7 := w.extractLsb' 7 7
/-- I7: bits [20:14] (R93). -/
def fI7 (w : Word) : BitVec 7 := w.extractLsb' 14 7
/-- I8: bits [21:14] (R94). -/
def fI8 (w : Word) : BitVec 8 := w.extractLsb' 14 8
/-- I10: bits [23:14] (R95). -/
def fI10 (w : Word) : BitVec 10 := w.extractLsb' 14 10
/-- I16: bits [22:7] (R96). -/
def fI16 (w : Word) : BitVec 16 := w.extractLsb' 7 16
/-- I18: bits [24:7] (R97). -/
def fI18 (w : Word) : BitVec 18 := w.extractLsb' 7 18
/-- The D feature bit of an indirect branch: bit 19 (R98). -/
def fD (w : Word) : Bool := w.getLsbD 19
/-- The E feature bit of an indirect branch: bit 18 (R98). -/
def fE (w : Word) : Bool := w.getLsbD 18
/-- The C feature bit of `sync`: bit 20 (R99). -/
def fC (w : Word) : Bool := w.getLsbD 20
/-- The P feature bit of `hbr`: bit 20 (R100). -/
def fP (w : Word) : Bool := w.getLsbD 20
/-- The signal type of `stop`: bits [13:0] (R99). -/
def fSIG (w : Word) : BitVec 14 := w.extractLsb' 0 14
/-- ROH of `hbr`: bits [15:14] (R100). -/
def fROHr (w : Word) : BitVec 2 := w.extractLsb' 14 2
/-- ROH of `hbra` and `hbrr`: bits [24:23] (R100). -/
def fROHa (w : Word) : BitVec 2 := w.extractLsb' 23 2
/-- ROL: bits [6:0] (R100). -/
def fROL (w : Word) : BitVec 7 := w.extractLsb' 0 7

/-- A row of the opcode table: how many leading bits are the opcode, its value, and the instruction the
fields of a matching word make (R105, R106). -/
structure Row where
  bits : Nat
  opcode : Nat
  build : Word → Instr

/-- `iw & mask = match`: the leading `bits` bits of the word are the opcode (R105). -/
def Row.matches (r : Row) (w : Word) : Bool := w.toNat >>> (32 - r.bits) == r.opcode

/-- Memory load and store, generate controls rows (spec/40_load_store.md). -/
def loadStoreRows : List Row := [
    ⟨8, 0b00110100, fun w => .lqd (fRT w) (fRA w) (fI10 w)⟩
  , ⟨11, 0b00111000100, fun w => .lqx (fRT w) (fRA w) (fRB w)⟩
  , ⟨9, 0b001100001, fun w => .lqa (fRT w) (fI16 w)⟩
  , ⟨9, 0b001100111, fun w => .lqr (fRT w) (fI16 w)⟩
  , ⟨8, 0b00100100, fun w => .stqd (fRT w) (fRA w) (fI10 w)⟩
  , ⟨11, 0b00101000100, fun w => .stqx (fRT w) (fRA w) (fRB w)⟩
  , ⟨9, 0b001000001, fun w => .stqa (fRT w) (fI16 w)⟩
  , ⟨9, 0b001000111, fun w => .stqr (fRT w) (fI16 w)⟩
  , ⟨11, 0b00111110100, fun w => .cbd (fRT w) (fRA w) (fI7 w)⟩
  , ⟨11, 0b00111010100, fun w => .cbx (fRT w) (fRA w) (fRB w)⟩
  , ⟨11, 0b00111110101, fun w => .chd (fRT w) (fRA w) (fI7 w)⟩
  , ⟨11, 0b00111010101, fun w => .chx (fRT w) (fRA w) (fRB w)⟩
  , ⟨11, 0b00111110110, fun w => .cwd (fRT w) (fRA w) (fI7 w)⟩
  , ⟨11, 0b00111010110, fun w => .cwx (fRT w) (fRA w) (fRB w)⟩
  , ⟨11, 0b00111110111, fun w => .cdd (fRT w) (fRA w) (fI7 w)⟩
  , ⟨11, 0b00111010111, fun w => .cdx (fRT w) (fRA w) (fRB w)⟩
  ]

/-- Constant formation rows (spec/41_constant_formation.md). -/
def constantRows : List Row := [
    ⟨9, 0b010000011, fun w => .ilh (fRT w) (fI16 w)⟩
  , ⟨9, 0b010000010, fun w => .ilhu (fRT w) (fI16 w)⟩
  , ⟨9, 0b010000001, fun w => .il (fRT w) (fI16 w)⟩
  , ⟨7, 0b0100001, fun w => .ila (fRT w) (fI18 w)⟩
  , ⟨9, 0b011000001, fun w => .iohl (fRT w) (fI16 w)⟩
  , ⟨9, 0b001100101, fun w => .fsmbi (fRT w) (fI16 w)⟩
  ]

/-- Integer rows (spec/42_integer.md). -/
def integerRows : List Row := [
    ⟨11, 0b00011001000, fun w => .ah (fRT w) (fRA w) (fRB w)⟩
  , ⟨8, 0b00011101, fun w => .ahi (fRT w) (fRA w) (fI10 w)⟩
  , ⟨11, 0b00011000000, fun w => .a (fRT w) (fRA w) (fRB w)⟩
  , ⟨8, 0b00011100, fun w => .ai (fRT w) (fRA w) (fI10 w)⟩
  , ⟨11, 0b00001001000, fun w => .sfh (fRT w) (fRA w) (fRB w)⟩
  , ⟨8, 0b00001101, fun w => .sfhi (fRT w) (fRA w) (fI10 w)⟩
  , ⟨11, 0b00001000000, fun w => .sf (fRT w) (fRA w) (fRB w)⟩
  , ⟨8, 0b00001100, fun w => .sfi (fRT w) (fRA w) (fI10 w)⟩
  , ⟨11, 0b01101000000, fun w => .addx (fRT w) (fRA w) (fRB w)⟩
  , ⟨11, 0b00011000010, fun w => .cg (fRT w) (fRA w) (fRB w)⟩
  , ⟨11, 0b01101000010, fun w => .cgx (fRT w) (fRA w) (fRB w)⟩
  , ⟨11, 0b01101000001, fun w => .sfx (fRT w) (fRA w) (fRB w)⟩
  , ⟨11, 0b00001000010, fun w => .bg (fRT w) (fRA w) (fRB w)⟩
  , ⟨11, 0b01101000011, fun w => .bgx (fRT w) (fRA w) (fRB w)⟩
  , ⟨11, 0b01111000100, fun w => .mpy (fRT w) (fRA w) (fRB w)⟩
  , ⟨11, 0b01111001100, fun w => .mpyu (fRT w) (fRA w) (fRB w)⟩
  , ⟨8, 0b01110100, fun w => .mpyi (fRT w) (fRA w) (fI10 w)⟩
  , ⟨8, 0b01110101, fun w => .mpyui (fRT w) (fRA w) (fI10 w)⟩
  , ⟨4, 0b1100, fun w => .mpya (fRT4 w) (fRA w) (fRB w) (fRC w)⟩
  , ⟨11, 0b01111000101, fun w => .mpyh (fRT w) (fRA w) (fRB w)⟩
  , ⟨11, 0b01111000111, fun w => .mpys (fRT w) (fRA w) (fRB w)⟩
  , ⟨11, 0b01111000110, fun w => .mpyhh (fRT w) (fRA w) (fRB w)⟩
  , ⟨11, 0b01101000110, fun w => .mpyhha (fRT w) (fRA w) (fRB w)⟩
  , ⟨11, 0b01111001110, fun w => .mpyhhu (fRT w) (fRA w) (fRB w)⟩
  , ⟨11, 0b01101001110, fun w => .mpyhhau (fRT w) (fRA w) (fRB w)⟩
  , ⟨11, 0b01010100101, fun w => .clz (fRT w) (fRA w)⟩
  , ⟨11, 0b01010110100, fun w => .cntb (fRT w) (fRA w)⟩
  , ⟨11, 0b00110110110, fun w => .fsmb (fRT w) (fRA w)⟩
  , ⟨11, 0b00110110101, fun w => .fsmh (fRT w) (fRA w)⟩
  , ⟨11, 0b00110110100, fun w => .fsm (fRT w) (fRA w)⟩
  , ⟨11, 0b00110110010, fun w => .gbb (fRT w) (fRA w)⟩
  , ⟨11, 0b00110110001, fun w => .gbh (fRT w) (fRA w)⟩
  , ⟨11, 0b00110110000, fun w => .gb (fRT w) (fRA w)⟩
  , ⟨11, 0b00011010011, fun w => .avgb (fRT w) (fRA w) (fRB w)⟩
  , ⟨11, 0b00001010011, fun w => .absdb (fRT w) (fRA w) (fRB w)⟩
  , ⟨11, 0b01001010011, fun w => .sumb (fRT w) (fRA w) (fRB w)⟩
  , ⟨11, 0b01010110110, fun w => .xsbh (fRT w) (fRA w)⟩
  , ⟨11, 0b01010101110, fun w => .xshw (fRT w) (fRA w)⟩
  , ⟨11, 0b01010100110, fun w => .xswd (fRT w) (fRA w)⟩
  ]

/-- Logical rows (spec/43_logical.md). -/
def logicalRows : List Row := [
    ⟨11, 0b00011000001, fun w => .and (fRT w) (fRA w) (fRB w)⟩
  , ⟨11, 0b01011000001, fun w => .andc (fRT w) (fRA w) (fRB w)⟩
  , ⟨8, 0b00010110, fun w => .andbi (fRT w) (fRA w) (fI10 w)⟩
  , ⟨8, 0b00010101, fun w => .andhi (fRT w) (fRA w) (fI10 w)⟩
  , ⟨8, 0b00010100, fun w => .andi (fRT w) (fRA w) (fI10 w)⟩
  , ⟨11, 0b00001000001, fun w => .or (fRT w) (fRA w) (fRB w)⟩
  , ⟨11, 0b01011001001, fun w => .orc (fRT w) (fRA w) (fRB w)⟩
  , ⟨8, 0b00000110, fun w => .orbi (fRT w) (fRA w) (fI10 w)⟩
  , ⟨8, 0b00000101, fun w => .orhi (fRT w) (fRA w) (fI10 w)⟩
  , ⟨8, 0b00000100, fun w => .ori (fRT w) (fRA w) (fI10 w)⟩
  , ⟨11, 0b00111110000, fun w => .orx (fRT w) (fRA w)⟩
  , ⟨11, 0b01001000001, fun w => .xor (fRT w) (fRA w) (fRB w)⟩
  , ⟨8, 0b01000110, fun w => .xorbi (fRT w) (fRA w) (fI10 w)⟩
  , ⟨8, 0b01000101, fun w => .xorhi (fRT w) (fRA w) (fI10 w)⟩
  , ⟨8, 0b01000100, fun w => .xori (fRT w) (fRA w) (fI10 w)⟩
  , ⟨11, 0b00011001001, fun w => .nand (fRT w) (fRA w) (fRB w)⟩
  , ⟨11, 0b00001001001, fun w => .nor (fRT w) (fRA w) (fRB w)⟩
  , ⟨11, 0b01001001001, fun w => .eqv (fRT w) (fRA w) (fRB w)⟩
  , ⟨4, 0b1000, fun w => .selb (fRT4 w) (fRA w) (fRB w) (fRC w)⟩
  , ⟨4, 0b1011, fun w => .shufb (fRT4 w) (fRA w) (fRB w) (fRC w)⟩
  ]

/-- Shift and rotate rows (spec/44_shift_rotate.md). -/
def shiftRotateRows : List Row := [
    ⟨11, 0b00001011111, fun w => .shlh (fRT w) (fRA w) (fRB w)⟩
  , ⟨11, 0b00001111111, fun w => .shlhi (fRT w) (fRA w) (fI7 w)⟩
  , ⟨11, 0b00001011011, fun w => .shl (fRT w) (fRA w) (fRB w)⟩
  , ⟨11, 0b00001111011, fun w => .shli (fRT w) (fRA w) (fI7 w)⟩
  , ⟨11, 0b00111011011, fun w => .shlqbi (fRT w) (fRA w) (fRB w)⟩
  , ⟨11, 0b00111111011, fun w => .shlqbii (fRT w) (fRA w) (fI7 w)⟩
  , ⟨11, 0b00111011111, fun w => .shlqby (fRT w) (fRA w) (fRB w)⟩
  , ⟨11, 0b00111111111, fun w => .shlqbyi (fRT w) (fRA w) (fI7 w)⟩
  , ⟨11, 0b00111001111, fun w => .shlqbybi (fRT w) (fRA w) (fRB w)⟩
  , ⟨11, 0b00001011100, fun w => .roth (fRT w) (fRA w) (fRB w)⟩
  , ⟨11, 0b00001111100, fun w => .rothi (fRT w) (fRA w) (fI7 w)⟩
  , ⟨11, 0b00001011000, fun w => .rot (fRT w) (fRA w) (fRB w)⟩
  , ⟨11, 0b00001111000, fun w => .roti (fRT w) (fRA w) (fI7 w)⟩
  , ⟨11, 0b00111011100, fun w => .rotqby (fRT w) (fRA w) (fRB w)⟩
  , ⟨11, 0b00111111100, fun w => .rotqbyi (fRT w) (fRA w) (fI7 w)⟩
  , ⟨11, 0b00111001100, fun w => .rotqbybi (fRT w) (fRA w) (fRB w)⟩
  , ⟨11, 0b00111011000, fun w => .rotqbi (fRT w) (fRA w) (fRB w)⟩
  , ⟨11, 0b00111111000, fun w => .rotqbii (fRT w) (fRA w) (fI7 w)⟩
  , ⟨11, 0b00001011101, fun w => .rothm (fRT w) (fRA w) (fRB w)⟩
  , ⟨11, 0b00001111101, fun w => .rothmi (fRT w) (fRA w) (fI7 w)⟩
  , ⟨11, 0b00001011001, fun w => .rotm (fRT w) (fRA w) (fRB w)⟩
  , ⟨11, 0b00001111001, fun w => .rotmi (fRT w) (fRA w) (fI7 w)⟩
  , ⟨11, 0b00111011101, fun w => .rotqmby (fRT w) (fRA w) (fRB w)⟩
  , ⟨11, 0b00111111101, fun w => .rotqmbyi (fRT w) (fRA w) (fI7 w)⟩
  , ⟨11, 0b00111001101, fun w => .rotqmbybi (fRT w) (fRA w) (fRB w)⟩
  , ⟨11, 0b00111011001, fun w => .rotqmbi (fRT w) (fRA w) (fRB w)⟩
  , ⟨11, 0b00111111001, fun w => .rotqmbii (fRT w) (fRA w) (fI7 w)⟩
  , ⟨11, 0b00001011110, fun w => .rotmah (fRT w) (fRA w) (fRB w)⟩
  , ⟨11, 0b00001111110, fun w => .rotmahi (fRT w) (fRA w) (fI7 w)⟩
  , ⟨11, 0b00001011010, fun w => .rotma (fRT w) (fRA w) (fRB w)⟩
  , ⟨11, 0b00001111010, fun w => .rotmai (fRT w) (fRA w) (fI7 w)⟩
  ]

/-- Halt, compare, branch rows (spec/45_compare_branch_halt.md). -/
def haltCompareBranchRows : List Row := [
    ⟨11, 0b01111011000, fun w => .heq (fRA w) (fRB w)⟩
  , ⟨8, 0b01111111, fun w => .heqi (fRA w) (fI10 w)⟩
  , ⟨11, 0b01001011000, fun w => .hgt (fRA w) (fRB w)⟩
  , ⟨8, 0b01001111, fun w => .hgti (fRA w) (fI10 w)⟩
  , ⟨11, 0b01011011000, fun w => .hlgt (fRA w) (fRB w)⟩
  , ⟨8, 0b01011111, fun w => .hlgti (fRA w) (fI10 w)⟩
  , ⟨11, 0b01111010000, fun w => .ceqb (fRT w) (fRA w) (fRB w)⟩
  , ⟨8, 0b01111110, fun w => .ceqbi (fRT w) (fRA w) (fI10 w)⟩
  , ⟨11, 0b01111001000, fun w => .ceqh (fRT w) (fRA w) (fRB w)⟩
  , ⟨8, 0b01111101, fun w => .ceqhi (fRT w) (fRA w) (fI10 w)⟩
  , ⟨11, 0b01111000000, fun w => .ceq (fRT w) (fRA w) (fRB w)⟩
  , ⟨8, 0b01111100, fun w => .ceqi (fRT w) (fRA w) (fI10 w)⟩
  , ⟨11, 0b01001010000, fun w => .cgtb (fRT w) (fRA w) (fRB w)⟩
  , ⟨8, 0b01001110, fun w => .cgtbi (fRT w) (fRA w) (fI10 w)⟩
  , ⟨11, 0b01001001000, fun w => .cgth (fRT w) (fRA w) (fRB w)⟩
  , ⟨8, 0b01001101, fun w => .cgthi (fRT w) (fRA w) (fI10 w)⟩
  , ⟨11, 0b01001000000, fun w => .cgt (fRT w) (fRA w) (fRB w)⟩
  , ⟨8, 0b01001100, fun w => .cgti (fRT w) (fRA w) (fI10 w)⟩
  , ⟨11, 0b01011010000, fun w => .clgtb (fRT w) (fRA w) (fRB w)⟩
  , ⟨8, 0b01011110, fun w => .clgtbi (fRT w) (fRA w) (fI10 w)⟩
  , ⟨11, 0b01011001000, fun w => .clgth (fRT w) (fRA w) (fRB w)⟩
  , ⟨8, 0b01011101, fun w => .clgthi (fRT w) (fRA w) (fI10 w)⟩
  , ⟨11, 0b01011000000, fun w => .clgt (fRT w) (fRA w) (fRB w)⟩
  , ⟨8, 0b01011100, fun w => .clgti (fRT w) (fRA w) (fI10 w)⟩
  , ⟨9, 0b001100100, fun w => .br (fI16 w)⟩
  , ⟨9, 0b001100000, fun w => .bra (fI16 w)⟩
  , ⟨9, 0b001100110, fun w => .brsl (fRT w) (fI16 w)⟩
  , ⟨9, 0b001100010, fun w => .brasl (fRT w) (fI16 w)⟩
  , ⟨11, 0b00110101000, fun w => .bi (fRA w) (fD w) (fE w)⟩
  , ⟨11, 0b00110101010, fun w => .iret (fRA w) (fD w) (fE w)⟩
  , ⟨11, 0b00110101011, fun w => .bisled (fRT w) (fRA w) (fD w) (fE w)⟩
  , ⟨11, 0b00110101001, fun w => .bisl (fRT w) (fRA w) (fD w) (fE w)⟩
  , ⟨9, 0b001000010, fun w => .brnz (fRT w) (fI16 w)⟩
  , ⟨9, 0b001000000, fun w => .brz (fRT w) (fI16 w)⟩
  , ⟨9, 0b001000110, fun w => .brhnz (fRT w) (fI16 w)⟩
  , ⟨9, 0b001000100, fun w => .brhz (fRT w) (fI16 w)⟩
  , ⟨11, 0b00100101000, fun w => .biz (fRT w) (fRA w) (fD w) (fE w)⟩
  , ⟨11, 0b00100101001, fun w => .binz (fRT w) (fRA w) (fD w) (fE w)⟩
  , ⟨11, 0b00100101010, fun w => .bihz (fRT w) (fRA w) (fD w) (fE w)⟩
  , ⟨11, 0b00100101011, fun w => .bihnz (fRT w) (fRA w) (fD w) (fE w)⟩
  ]

/-- Branch hints rows (spec/46_branch_hints.md). -/
def hintRows : List Row := [
    ⟨11, 0b00110101100, fun w => .hbr (fROHr w) (fROL w) (fRA w) (fP w)⟩
  , ⟨7, 0b0001000, fun w => .hbra (fROHa w) (fROL w) (fI16 w)⟩
  , ⟨7, 0b0001001, fun w => .hbrr (fROHa w) (fROL w) (fI16 w)⟩
  ]

/-- Floating point rows (spec/47_floating_point.md). -/
def floatingPointRows : List Row := [
    ⟨11, 0b01011000100, fun w => .fa (fRT w) (fRA w) (fRB w)⟩
  , ⟨11, 0b01011001100, fun w => .dfa (fRT w) (fRA w) (fRB w)⟩
  , ⟨11, 0b01011000101, fun w => .fs (fRT w) (fRA w) (fRB w)⟩
  , ⟨11, 0b01011001101, fun w => .dfs (fRT w) (fRA w) (fRB w)⟩
  , ⟨11, 0b01011000110, fun w => .fm (fRT w) (fRA w) (fRB w)⟩
  , ⟨11, 0b01011001110, fun w => .dfm (fRT w) (fRA w) (fRB w)⟩
  , ⟨4, 0b1110, fun w => .fma (fRT4 w) (fRA w) (fRB w) (fRC w)⟩
  , ⟨11, 0b01101011100, fun w => .dfma (fRT w) (fRA w) (fRB w)⟩
  , ⟨4, 0b1101, fun w => .fnms (fRT4 w) (fRA w) (fRB w) (fRC w)⟩
  , ⟨11, 0b01101011110, fun w => .dfnms (fRT w) (fRA w) (fRB w)⟩
  , ⟨4, 0b1111, fun w => .fms (fRT4 w) (fRA w) (fRB w) (fRC w)⟩
  , ⟨11, 0b01101011101, fun w => .dfms (fRT w) (fRA w) (fRB w)⟩
  , ⟨11, 0b01101011111, fun w => .dfnma (fRT w) (fRA w) (fRB w)⟩
  , ⟨11, 0b00110111000, fun w => .frest (fRT w) (fRA w)⟩
  , ⟨11, 0b00110111001, fun w => .frsqest (fRT w) (fRA w)⟩
  , ⟨11, 0b01111010100, fun w => .fi (fRT w) (fRA w) (fRB w)⟩
  , ⟨10, 0b0111011010, fun w => .csflt (fRT w) (fRA w) (fI8 w)⟩
  , ⟨10, 0b0111011000, fun w => .cflts (fRT w) (fRA w) (fI8 w)⟩
  , ⟨10, 0b0111011011, fun w => .cuflt (fRT w) (fRA w) (fI8 w)⟩
  , ⟨10, 0b0111011001, fun w => .cfltu (fRT w) (fRA w) (fI8 w)⟩
  , ⟨11, 0b01110111001, fun w => .frds (fRT w) (fRA w)⟩
  , ⟨11, 0b01110111000, fun w => .fesd (fRT w) (fRA w)⟩
  , ⟨11, 0b01111000011, fun w => .dfceq (fRT w) (fRA w) (fRB w)⟩
  , ⟨11, 0b01111001011, fun w => .dfcmeq (fRT w) (fRA w) (fRB w)⟩
  , ⟨11, 0b01011000011, fun w => .dfcgt (fRT w) (fRA w) (fRB w)⟩
  , ⟨11, 0b01011001011, fun w => .dfcmgt (fRT w) (fRA w) (fRB w)⟩
  , ⟨11, 0b01110111111, fun w => .dftsv (fRT w) (fRA w) (fI7 w)⟩
  , ⟨11, 0b01111000010, fun w => .fceq (fRT w) (fRA w) (fRB w)⟩
  , ⟨11, 0b01111001010, fun w => .fcmeq (fRT w) (fRA w) (fRB w)⟩
  , ⟨11, 0b01011000010, fun w => .fcgt (fRT w) (fRA w) (fRB w)⟩
  , ⟨11, 0b01011001010, fun w => .fcmgt (fRT w) (fRA w) (fRB w)⟩
  , ⟨11, 0b01110111010, fun w => .fscrwr (fRA w) (fRT w)⟩
  , ⟨11, 0b01110011000, fun w => .fscrrd (fRT w)⟩
  ]

/-- Control and channel rows (spec/48_control_channel.md). -/
def controlRows : List Row := [
    ⟨11, 0b00000000000, fun w => .stop (fSIG w)⟩
  , ⟨11, 0b00101000000, fun w => .stopd (fRT w) (fRA w) (fRB w)⟩
  , ⟨11, 0b00000000001, fun _ => .lnop⟩
  , ⟨11, 0b01000000001, fun w => .nop (fRT w)⟩
  , ⟨11, 0b00000000010, fun w => .sync (fC w)⟩
  , ⟨11, 0b00000000011, fun _ => .dsync⟩
  , ⟨11, 0b00000001100, fun w => .mfspr (fRT w) (fSA w)⟩
  , ⟨11, 0b00100001100, fun w => .mtspr (fSA w) (fRT w)⟩
  , ⟨11, 0b00000001101, fun w => .rdch (fRT w) (fCA w)⟩
  , ⟨11, 0b00000001111, fun w => .rchcnt (fRT w) (fCA w)⟩
  , ⟨11, 0b00100001101, fun w => .wrch (fCA w) (fRT w)⟩
  ]

/-- The opcode table (R106). -/
def rows : List Row :=
  loadStoreRows ++ constantRows ++ integerRows ++ logicalRows ++ shiftRotateRows ++ haltCompareBranchRows ++ hintRows ++ floatingPointRows ++ controlRows

/-- The instruction of a word: the row whose opcode the word begins with (R105). No two rows share a word, so
the order of the table does not matter. -/
def decode (w : Word) : Except DecodeError Instr :=
  match rows.find? (·.matches w) with
  | some r => .ok (r.build w)
  | none => .error (.unassigned w)

/-- The instruction word of four bytes, the byte at the lowest address most significant (spec/20_memory.md R56). -/
def wordOfBytes (b0 b1 b2 b3 : Byte) : Word := b0 ++ (b1 ++ (b2 ++ b3))

/-- The four bytes of a word in the order of their addresses (R56). -/
def bytesOfWord (w : Word) : List Byte :=
  [w.extractLsb' 24 8, w.extractLsb' 16 8, w.extractLsb' 8 8, w.extractLsb' 0 8]

/-- The instruction at the head of a list of bytes, and the bytes after it. -/
def decodeBytes : List Byte → Except DecodeError (Instr × List Byte)
  | b0 :: b1 :: b2 :: b3 :: rest =>
    match decode (wordOfBytes b0 b1 b2 b3) with
    | .ok i => .ok (i, rest)
    | .error e => .error e
  | bs => .error (.truncated bs.length)

/-- The word of a table row's bits: `nbits` of them given, every bit above 0. -/
def tableWord (nbits w : Nat) : Word := BitVec.ofNat 32 (w % 2 ^ nbits)

/-- The instruction the decoder reads from an instruction whose bits are `w`, its word laid out in the
hardware's byte order. -/
def decodeTableWord (nbits w : Nat) : Option Instr :=
  match decodeBytes (bytesOfWord (tableWord nbits w)) with
  | .ok (i, _) => some i
  | .error _ => none

/-- RR: opcode, RB, RA, RT (R91); RI7 has I7 in the place of RB (R93). -/
def formRR (op : BitVec 11) (rb ra rt : BitVec 7) : Word := op ++ (rb ++ (ra ++ rt))
/-- RRR: opcode, RT, RB, RA, RC (R92). -/
def formRRR (op : BitVec 4) (rt rb ra rc : BitVec 7) : Word := op ++ (rt ++ (rb ++ (ra ++ rc)))
/-- RI8: opcode, I8, RA, RT (R94). -/
def formRI8 (op : BitVec 10) (i8 : BitVec 8) (ra rt : BitVec 7) : Word := op ++ (i8 ++ (ra ++ rt))
/-- RI10: opcode, I10, RA, RT (R95). -/
def formRI10 (op : BitVec 8) (i10 : BitVec 10) (ra rt : BitVec 7) : Word := op ++ (i10 ++ (ra ++ rt))
/-- RI16: opcode, I16, RT (R96). -/
def formRI16 (op : BitVec 9) (i16 : BitVec 16) (rt : BitVec 7) : Word := op ++ (i16 ++ rt)
/-- RI18: opcode, I18, RT (R97). -/
def formRI18 (op : BitVec 7) (i18 : BitVec 18) (rt : BitVec 7) : Word := op ++ (i18 ++ rt)
/-- Indirect branches: opcode, a reserved bit, D, E, four reserved bits, RA, RT (R98). -/
def formBI (op : BitVec 11) (d e : Bool) (ra rt : BitVec 7) : Word :=
  op ++ (0#1 ++ (BitVec.ofBool d ++ (BitVec.ofBool e ++ (0#4 ++ (ra ++ rt)))))
/-- `sync`: opcode, C, reserved (R99). -/
def formSYNC (op : BitVec 11) (c : Bool) : Word := op ++ (BitVec.ofBool c ++ 0#20)
/-- `stop`: opcode, reserved, SIG (R99). -/
def formSTOP (op : BitVec 11) (sig : BitVec 14) : Word := op ++ (0#7 ++ sig)
/-- `hbr`: opcode, P, reserved, ROH, RA, ROL (R100). -/
def formHBR (op : BitVec 11) (p : Bool) (roh : BitVec 2) (ra rol : BitVec 7) : Word :=
  op ++ (BitVec.ofBool p ++ (0#4 ++ (roh ++ (ra ++ rol))))
/-- `hbra`, `hbrr`: opcode, ROH, I16, ROL (R100). -/
def formHBRA (op : BitVec 7) (roh : BitVec 2) (i16 : BitVec 16) (rol : BitVec 7) : Word :=
  op ++ (roh ++ (i16 ++ rol))


/-- The word of an instruction, every reserved bit 0 (R106): written from the table's patterns, not from `rows`. -/
def encode : Instr → Word
  | .lqd rt ra i10 => formRI10 0b00110100#8 i10 ra rt
  | .lqx rt ra rb => formRR 0b00111000100#11 rb ra rt
  | .lqa rt i16 => formRI16 0b001100001#9 i16 rt
  | .lqr rt i16 => formRI16 0b001100111#9 i16 rt
  | .stqd rt ra i10 => formRI10 0b00100100#8 i10 ra rt
  | .stqx rt ra rb => formRR 0b00101000100#11 rb ra rt
  | .stqa rt i16 => formRI16 0b001000001#9 i16 rt
  | .stqr rt i16 => formRI16 0b001000111#9 i16 rt
  | .cbd rt ra i7 => formRR 0b00111110100#11 i7 ra rt
  | .cbx rt ra rb => formRR 0b00111010100#11 rb ra rt
  | .chd rt ra i7 => formRR 0b00111110101#11 i7 ra rt
  | .chx rt ra rb => formRR 0b00111010101#11 rb ra rt
  | .cwd rt ra i7 => formRR 0b00111110110#11 i7 ra rt
  | .cwx rt ra rb => formRR 0b00111010110#11 rb ra rt
  | .cdd rt ra i7 => formRR 0b00111110111#11 i7 ra rt
  | .cdx rt ra rb => formRR 0b00111010111#11 rb ra rt
  | .ilh rt i16 => formRI16 0b010000011#9 i16 rt
  | .ilhu rt i16 => formRI16 0b010000010#9 i16 rt
  | .il rt i16 => formRI16 0b010000001#9 i16 rt
  | .ila rt i18 => formRI18 0b0100001#7 i18 rt
  | .iohl rt i16 => formRI16 0b011000001#9 i16 rt
  | .fsmbi rt i16 => formRI16 0b001100101#9 i16 rt
  | .ah rt ra rb => formRR 0b00011001000#11 rb ra rt
  | .ahi rt ra i10 => formRI10 0b00011101#8 i10 ra rt
  | .a rt ra rb => formRR 0b00011000000#11 rb ra rt
  | .ai rt ra i10 => formRI10 0b00011100#8 i10 ra rt
  | .sfh rt ra rb => formRR 0b00001001000#11 rb ra rt
  | .sfhi rt ra i10 => formRI10 0b00001101#8 i10 ra rt
  | .sf rt ra rb => formRR 0b00001000000#11 rb ra rt
  | .sfi rt ra i10 => formRI10 0b00001100#8 i10 ra rt
  | .addx rt ra rb => formRR 0b01101000000#11 rb ra rt
  | .cg rt ra rb => formRR 0b00011000010#11 rb ra rt
  | .cgx rt ra rb => formRR 0b01101000010#11 rb ra rt
  | .sfx rt ra rb => formRR 0b01101000001#11 rb ra rt
  | .bg rt ra rb => formRR 0b00001000010#11 rb ra rt
  | .bgx rt ra rb => formRR 0b01101000011#11 rb ra rt
  | .mpy rt ra rb => formRR 0b01111000100#11 rb ra rt
  | .mpyu rt ra rb => formRR 0b01111001100#11 rb ra rt
  | .mpyi rt ra i10 => formRI10 0b01110100#8 i10 ra rt
  | .mpyui rt ra i10 => formRI10 0b01110101#8 i10 ra rt
  | .mpya rt ra rb rc => formRRR 0b1100#4 rt rb ra rc
  | .mpyh rt ra rb => formRR 0b01111000101#11 rb ra rt
  | .mpys rt ra rb => formRR 0b01111000111#11 rb ra rt
  | .mpyhh rt ra rb => formRR 0b01111000110#11 rb ra rt
  | .mpyhha rt ra rb => formRR 0b01101000110#11 rb ra rt
  | .mpyhhu rt ra rb => formRR 0b01111001110#11 rb ra rt
  | .mpyhhau rt ra rb => formRR 0b01101001110#11 rb ra rt
  | .clz rt ra => formRR 0b01010100101#11 0#7 ra rt
  | .cntb rt ra => formRR 0b01010110100#11 0#7 ra rt
  | .fsmb rt ra => formRR 0b00110110110#11 0#7 ra rt
  | .fsmh rt ra => formRR 0b00110110101#11 0#7 ra rt
  | .fsm rt ra => formRR 0b00110110100#11 0#7 ra rt
  | .gbb rt ra => formRR 0b00110110010#11 0#7 ra rt
  | .gbh rt ra => formRR 0b00110110001#11 0#7 ra rt
  | .gb rt ra => formRR 0b00110110000#11 0#7 ra rt
  | .avgb rt ra rb => formRR 0b00011010011#11 rb ra rt
  | .absdb rt ra rb => formRR 0b00001010011#11 rb ra rt
  | .sumb rt ra rb => formRR 0b01001010011#11 rb ra rt
  | .xsbh rt ra => formRR 0b01010110110#11 0#7 ra rt
  | .xshw rt ra => formRR 0b01010101110#11 0#7 ra rt
  | .xswd rt ra => formRR 0b01010100110#11 0#7 ra rt
  | .and rt ra rb => formRR 0b00011000001#11 rb ra rt
  | .andc rt ra rb => formRR 0b01011000001#11 rb ra rt
  | .andbi rt ra i10 => formRI10 0b00010110#8 i10 ra rt
  | .andhi rt ra i10 => formRI10 0b00010101#8 i10 ra rt
  | .andi rt ra i10 => formRI10 0b00010100#8 i10 ra rt
  | .or rt ra rb => formRR 0b00001000001#11 rb ra rt
  | .orc rt ra rb => formRR 0b01011001001#11 rb ra rt
  | .orbi rt ra i10 => formRI10 0b00000110#8 i10 ra rt
  | .orhi rt ra i10 => formRI10 0b00000101#8 i10 ra rt
  | .ori rt ra i10 => formRI10 0b00000100#8 i10 ra rt
  | .orx rt ra => formRR 0b00111110000#11 0#7 ra rt
  | .xor rt ra rb => formRR 0b01001000001#11 rb ra rt
  | .xorbi rt ra i10 => formRI10 0b01000110#8 i10 ra rt
  | .xorhi rt ra i10 => formRI10 0b01000101#8 i10 ra rt
  | .xori rt ra i10 => formRI10 0b01000100#8 i10 ra rt
  | .nand rt ra rb => formRR 0b00011001001#11 rb ra rt
  | .nor rt ra rb => formRR 0b00001001001#11 rb ra rt
  | .eqv rt ra rb => formRR 0b01001001001#11 rb ra rt
  | .selb rt ra rb rc => formRRR 0b1000#4 rt rb ra rc
  | .shufb rt ra rb rc => formRRR 0b1011#4 rt rb ra rc
  | .shlh rt ra rb => formRR 0b00001011111#11 rb ra rt
  | .shlhi rt ra i7 => formRR 0b00001111111#11 i7 ra rt
  | .shl rt ra rb => formRR 0b00001011011#11 rb ra rt
  | .shli rt ra i7 => formRR 0b00001111011#11 i7 ra rt
  | .shlqbi rt ra rb => formRR 0b00111011011#11 rb ra rt
  | .shlqbii rt ra i7 => formRR 0b00111111011#11 i7 ra rt
  | .shlqby rt ra rb => formRR 0b00111011111#11 rb ra rt
  | .shlqbyi rt ra i7 => formRR 0b00111111111#11 i7 ra rt
  | .shlqbybi rt ra rb => formRR 0b00111001111#11 rb ra rt
  | .roth rt ra rb => formRR 0b00001011100#11 rb ra rt
  | .rothi rt ra i7 => formRR 0b00001111100#11 i7 ra rt
  | .rot rt ra rb => formRR 0b00001011000#11 rb ra rt
  | .roti rt ra i7 => formRR 0b00001111000#11 i7 ra rt
  | .rotqby rt ra rb => formRR 0b00111011100#11 rb ra rt
  | .rotqbyi rt ra i7 => formRR 0b00111111100#11 i7 ra rt
  | .rotqbybi rt ra rb => formRR 0b00111001100#11 rb ra rt
  | .rotqbi rt ra rb => formRR 0b00111011000#11 rb ra rt
  | .rotqbii rt ra i7 => formRR 0b00111111000#11 i7 ra rt
  | .rothm rt ra rb => formRR 0b00001011101#11 rb ra rt
  | .rothmi rt ra i7 => formRR 0b00001111101#11 i7 ra rt
  | .rotm rt ra rb => formRR 0b00001011001#11 rb ra rt
  | .rotmi rt ra i7 => formRR 0b00001111001#11 i7 ra rt
  | .rotqmby rt ra rb => formRR 0b00111011101#11 rb ra rt
  | .rotqmbyi rt ra i7 => formRR 0b00111111101#11 i7 ra rt
  | .rotqmbybi rt ra rb => formRR 0b00111001101#11 rb ra rt
  | .rotqmbi rt ra rb => formRR 0b00111011001#11 rb ra rt
  | .rotqmbii rt ra i7 => formRR 0b00111111001#11 i7 ra rt
  | .rotmah rt ra rb => formRR 0b00001011110#11 rb ra rt
  | .rotmahi rt ra i7 => formRR 0b00001111110#11 i7 ra rt
  | .rotma rt ra rb => formRR 0b00001011010#11 rb ra rt
  | .rotmai rt ra i7 => formRR 0b00001111010#11 i7 ra rt
  | .heq ra rb => formRR 0b01111011000#11 rb ra 0#7
  | .heqi ra i10 => formRI10 0b01111111#8 i10 ra 0#7
  | .hgt ra rb => formRR 0b01001011000#11 rb ra 0#7
  | .hgti ra i10 => formRI10 0b01001111#8 i10 ra 0#7
  | .hlgt ra rb => formRR 0b01011011000#11 rb ra 0#7
  | .hlgti ra i10 => formRI10 0b01011111#8 i10 ra 0#7
  | .ceqb rt ra rb => formRR 0b01111010000#11 rb ra rt
  | .ceqbi rt ra i10 => formRI10 0b01111110#8 i10 ra rt
  | .ceqh rt ra rb => formRR 0b01111001000#11 rb ra rt
  | .ceqhi rt ra i10 => formRI10 0b01111101#8 i10 ra rt
  | .ceq rt ra rb => formRR 0b01111000000#11 rb ra rt
  | .ceqi rt ra i10 => formRI10 0b01111100#8 i10 ra rt
  | .cgtb rt ra rb => formRR 0b01001010000#11 rb ra rt
  | .cgtbi rt ra i10 => formRI10 0b01001110#8 i10 ra rt
  | .cgth rt ra rb => formRR 0b01001001000#11 rb ra rt
  | .cgthi rt ra i10 => formRI10 0b01001101#8 i10 ra rt
  | .cgt rt ra rb => formRR 0b01001000000#11 rb ra rt
  | .cgti rt ra i10 => formRI10 0b01001100#8 i10 ra rt
  | .clgtb rt ra rb => formRR 0b01011010000#11 rb ra rt
  | .clgtbi rt ra i10 => formRI10 0b01011110#8 i10 ra rt
  | .clgth rt ra rb => formRR 0b01011001000#11 rb ra rt
  | .clgthi rt ra i10 => formRI10 0b01011101#8 i10 ra rt
  | .clgt rt ra rb => formRR 0b01011000000#11 rb ra rt
  | .clgti rt ra i10 => formRI10 0b01011100#8 i10 ra rt
  | .br i16 => formRI16 0b001100100#9 i16 0#7
  | .bra i16 => formRI16 0b001100000#9 i16 0#7
  | .brsl rt i16 => formRI16 0b001100110#9 i16 rt
  | .brasl rt i16 => formRI16 0b001100010#9 i16 rt
  | .bi ra d e => formBI 0b00110101000#11 d e ra 0#7
  | .iret ra d e => formBI 0b00110101010#11 d e ra 0#7
  | .bisled rt ra d e => formBI 0b00110101011#11 d e ra rt
  | .bisl rt ra d e => formBI 0b00110101001#11 d e ra rt
  | .brnz rt i16 => formRI16 0b001000010#9 i16 rt
  | .brz rt i16 => formRI16 0b001000000#9 i16 rt
  | .brhnz rt i16 => formRI16 0b001000110#9 i16 rt
  | .brhz rt i16 => formRI16 0b001000100#9 i16 rt
  | .biz rt ra d e => formBI 0b00100101000#11 d e ra rt
  | .binz rt ra d e => formBI 0b00100101001#11 d e ra rt
  | .bihz rt ra d e => formBI 0b00100101010#11 d e ra rt
  | .bihnz rt ra d e => formBI 0b00100101011#11 d e ra rt
  | .hbr roh rol ra p => formHBR 0b00110101100#11 p roh ra rol
  | .hbra roh rol i16 => formHBRA 0b0001000#7 roh i16 rol
  | .hbrr roh rol i16 => formHBRA 0b0001001#7 roh i16 rol
  | .fa rt ra rb => formRR 0b01011000100#11 rb ra rt
  | .dfa rt ra rb => formRR 0b01011001100#11 rb ra rt
  | .fs rt ra rb => formRR 0b01011000101#11 rb ra rt
  | .dfs rt ra rb => formRR 0b01011001101#11 rb ra rt
  | .fm rt ra rb => formRR 0b01011000110#11 rb ra rt
  | .dfm rt ra rb => formRR 0b01011001110#11 rb ra rt
  | .fma rt ra rb rc => formRRR 0b1110#4 rt rb ra rc
  | .dfma rt ra rb => formRR 0b01101011100#11 rb ra rt
  | .fnms rt ra rb rc => formRRR 0b1101#4 rt rb ra rc
  | .dfnms rt ra rb => formRR 0b01101011110#11 rb ra rt
  | .fms rt ra rb rc => formRRR 0b1111#4 rt rb ra rc
  | .dfms rt ra rb => formRR 0b01101011101#11 rb ra rt
  | .dfnma rt ra rb => formRR 0b01101011111#11 rb ra rt
  | .frest rt ra => formRR 0b00110111000#11 0#7 ra rt
  | .frsqest rt ra => formRR 0b00110111001#11 0#7 ra rt
  | .fi rt ra rb => formRR 0b01111010100#11 rb ra rt
  | .csflt rt ra i8 => formRI8 0b0111011010#10 i8 ra rt
  | .cflts rt ra i8 => formRI8 0b0111011000#10 i8 ra rt
  | .cuflt rt ra i8 => formRI8 0b0111011011#10 i8 ra rt
  | .cfltu rt ra i8 => formRI8 0b0111011001#10 i8 ra rt
  | .frds rt ra => formRR 0b01110111001#11 0#7 ra rt
  | .fesd rt ra => formRR 0b01110111000#11 0#7 ra rt
  | .dfceq rt ra rb => formRR 0b01111000011#11 rb ra rt
  | .dfcmeq rt ra rb => formRR 0b01111001011#11 rb ra rt
  | .dfcgt rt ra rb => formRR 0b01011000011#11 rb ra rt
  | .dfcmgt rt ra rb => formRR 0b01011001011#11 rb ra rt
  | .dftsv rt ra i7 => formRR 0b01110111111#11 i7 ra rt
  | .fceq rt ra rb => formRR 0b01111000010#11 rb ra rt
  | .fcmeq rt ra rb => formRR 0b01111001010#11 rb ra rt
  | .fcgt rt ra rb => formRR 0b01011000010#11 rb ra rt
  | .fcmgt rt ra rb => formRR 0b01011001010#11 rb ra rt
  | .fscrwr ra rt => formRR 0b01110111010#11 0#7 ra rt
  | .fscrrd rt => formRR 0b01110011000#11 0#7 0#7 rt
  | .stop sig => formSTOP 0b00000000000#11 sig
  | .stopd rt ra rb => formRR 0b00101000000#11 rb ra rt
  | .lnop => formRR 0b00000000001#11 0#7 0#7 0#7
  | .nop rt => formRR 0b01000000001#11 0#7 0#7 rt
  | .sync c => formSYNC 0b00000000010#11 c
  | .dsync => formRR 0b00000000011#11 0#7 0#7 0#7
  | .mfspr rt sa => formRR 0b00000001100#11 0#7 sa rt
  | .mtspr sa rt => formRR 0b00100001100#11 0#7 sa rt
  | .rdch rt ca => formRR 0b00000001101#11 0#7 ca rt
  | .rchcnt rt ca => formRR 0b00000001111#11 0#7 ca rt
  | .wrch ca rt => formRR 0b00100001101#11 0#7 ca rt

end Sys2Proof
end

