-- ==== Sys2Proof/Config.lean ====
section
/-!
DEFINITION. What an implementation fixes (spec/00_scope.md R8) and the free values: opaque constants with no
body, so that nothing can be proved about the value one of them takes.
-/

namespace Sys2Proof

/-- The three flags a single-precision instruction may set beside DBZ (spec/47_floating_point.md R394). -/
structure SingleFlags where
  ovf : Bool
  unf : Bool
  diff : Bool
  deriving DecidableEq, Repr, Inhabited

/-- The six flags a double-precision instruction may set (R403). -/
structure DoubleFlags where
  ovf : Bool
  unf : Bool
  inx : Bool
  inv : Bool
  nan : Bool
  denorm : Bool
  deriving DecidableEq, Repr, Inhabited

/-- The operations of FP_SINGLE (R393); `fromInt` and `fromUint` are the two halves of `from_int`. -/
inductive SingleOp where
  | add | sub | mul | madd | msub | nmsub | interp | fromInt | fromUint
  deriving DecidableEq, Repr

/-- The operations of FP_DOUBLE (R393). -/
inductive DoubleOp where
  | add | sub | mul | madd | msub
  deriving DecidableEq, Repr

/-- The configuration parameters of R8 that are neither state nor a free value. A state holds one, and no
instruction changes it, so a statement about every state is one about every configuration. -/
structure Config where
  /-- LS_REAL_SIZE: the real size of local storage in bytes (R8, spec/20_memory.md R80). -/
  lsRealSize : Nat
  /-- HAS_DP_COMPARE: whether the five optional instructions exist (spec/30_encoding.md R107). -/
  hasDpCompare : Bool
  /-- DP_DENORM_INPUT_ZERO (spec/47_floating_point.md R400). -/
  dpDenormInputZero : Bool
  /-- DP_NAN_DEFAULT (R399). -/
  dpNanDefault : Bool
  /-- FP_SINGLE is the reference function of R395; otherwise it is `Config.fpSingleOther` (R391, R393). -/
  fpSingleRef : Bool
  /-- FP_DOUBLE is the reference function of R404; otherwise it is `Config.fpDoubleOther` (R391, R393). -/
  fpDoubleRef : Bool
  deriving DecidableEq, Repr

namespace Config

/-- The reference instance of spec/92_eei_decisions.md. DESIGN CHOICE (log entry 30). -/
def reference : Config where
  lsRealSize := 0x40000
  hasDpCompare := true
  dpDenormInputZero := true
  dpNanDefault := true
  fpSingleRef := true
  fpDoubleRef := true

/-- FREST_TABLE before its constraints: the estimate of a word where it meets them
(`Sys2Proof.Machine.reciprocalEstimate`); the source gives no table (R423). Free value, log entry 16. -/
opaque frestTable : Word → Word

/-- FRSQEST_TABLE before its constraints (`Sys2Proof.Machine.rootEstimate`): the low 31 bits of the estimate
from the low 31 bits of the operand; the sign of the operand is ignored and the sign of the result is 0 (R424).
Free value, log entry 16. -/
opaque frsqestTable : BitVec 31 → BitVec 31

/-- FP_SINGLE of an implementation that does not deliver the reference results (R391). Free value, log entry 15. -/
opaque fpSingleOther : SingleOp → Word → Word → Word → Word × SingleFlags

/-- FP_DOUBLE of an implementation that does not deliver the reference results (R391); the second argument is
the rounding mode. Free value, log entry 15. -/
opaque fpDoubleOther : DoubleOp → BitVec 2 → Dword → Dword → Dword → Dword × DoubleFlags

/-- DP_NAN_PROPAGATE, the choice: which of the input NaNs an operation delivers, counted modulo their number
(R399). Free value, log entry 18. -/
opaque dpNanChoice : DoubleOp → Dword → Dword → Dword → Nat

/-- DP_NAN_PROPAGATE, the quieting: what an operation makes of the NaN chosen where that one is signalling
(R399, spec/93_implementation_defined.md U16). Free value, log entry 18. -/
opaque dpNanQuieted : DoubleOp → Dword → Dword → Dword → Dword

/-- The single-precision form of a NaN that `frds` propagates, before it is made quiet; the source gives none
(R399, R430). Free value, log entry 18. -/
opaque nanToSingle : Dword → Word

/-- The double-precision form of a NaN that `fesd` propagates, before it is made quiet; the source gives none
(R399, R431). Free value, log entry 18. -/
opaque nanToDouble : Word → Dword

/-- What a byte of local storage that nothing has supplied holds, for each address (spec/10_state.md R44,
spec/93_implementation_defined.md U30). Free value, log entry 27. -/
opaque unsuppliedByte : Nat → Byte

/-- Which of the values an unsynchronised storage access may return is returned (spec/20_memory.md R73), counted
modulo their number. Free value, log entry 31. -/
opaque freeChoice : Nat → Nat

/-- A 32-bit value the source leaves unspecified: SRR0 between `wrch` and channel synchronisation
(spec/48_control_channel.md R483). Free value, log entry 9. -/
opaque freeWord : Nat → Word

/-- A 128-bit value the source leaves undefined: RT of a conversion whose scale is outside 0 to 127
(spec/47_floating_point.md R426 to R429). Free value, log entry 19. -/
opaque freeQuad : Nat → Quad

/-- The single-precision flags such a conversion may add, for each slice (R426 to R429, U17). Free value,
log entry 19. -/
opaque freeFlags : Nat → Nat → SingleFlags

end Config

end Sys2Proof
end

