-- ==== Sys2Proof/Machine/Operands.lean ====
section
/-!
DEFINITION. Slots of a register, immediates, effective addresses, shift counts and branch targets: every operand
form of the instruction rules, as functions of values (spec/00_scope.md R15, spec/30_encoding.md R102).
-/

namespace Sys2Proof.Machine

/-- `byte(q, j)`, j in 0..15: byte 0 is the most significant (R15). -/
def byte (q : Quad) (j : Nat) : Byte := q.extractLsb' (120 - 8 * j) 8
/-- `hw(q, j)`, j in 0..7 (R15). -/
def hw (q : Quad) (j : Nat) : Half := q.extractLsb' (112 - 16 * j) 16
/-- `word(q, j)`, j in 0..3 (R15). -/
def word (q : Quad) (j : Nat) : Word := q.extractLsb' (96 - 32 * j) 32
/-- `dword(q, j)`, j in 0..1 (R15). -/
def dword (q : Quad) (j : Nat) : Dword := q.extractLsb' (64 - 64 * j) 64
/-- `pref(q)`: the preferred slot, word 0 (R15, spec/10_state.md R25). -/
def pref (q : Quad) : Word := word q 0

/-- The register whose byte j is `f j`. -/
def ofBytes (f : Nat → Byte) : Quad :=
  f 0 ++ (f 1 ++ (f 2 ++ (f 3 ++ (f 4 ++ (f 5 ++ (f 6 ++ (f 7 ++
    (f 8 ++ (f 9 ++ (f 10 ++ (f 11 ++ (f 12 ++ (f 13 ++ (f 14 ++ f 15))))))))))))))
/-- The register whose halfword j is `f j`. -/
def ofHalfs (f : Nat → Half) : Quad :=
  f 0 ++ (f 1 ++ (f 2 ++ (f 3 ++ (f 4 ++ (f 5 ++ (f 6 ++ f 7))))))
/-- The register whose word j is `f j`. -/
def ofWords (f : Nat → Word) : Quad := f 0 ++ (f 1 ++ (f 2 ++ f 3))
/-- The register whose doubleword j is `f j`. -/
def ofDwords (f : Nat → Dword) : Quad := f 0 ++ f 1
/-- `v ++ zeros(96)`: a word in the preferred slot, zeros in the other slots. -/
def prefQuad (v : Word) : Quad := v ++ 0#96

/-- `sext_16(I10)`, the halfword immediate forms (R102). -/
def imm16 (i10 : BitVec 10) : Half := i10.signExtend 16
/-- `sext_32(I10)`, the word immediate forms (R102). -/
def imm32 (i10 : BitVec 10) : Word := i10.signExtend 32
/-- `I10[7:0]`, the byte immediate forms (R102). -/
def imm8 (i10 : BitVec 10) : Byte := i10.extractLsb' 0 8

/-- d-form address: the signed quadword displacement times 16, plus the base (spec/40_load_store.md R131). -/
def eaD (i10 : BitVec 10) (ra : Quad) : Word := (i10 ++ 0#4).signExtend 32 + pref ra
/-- x-form address: the sum of two preferred slots, modulo 2^32 (R132). -/
def eaX (ra rb : Quad) : Word := pref ra + pref rb
/-- a-form address: I16 with two zero bits appended, sign-extended (R133). -/
def eaA (i16 : BitVec 16) : Word := (i16 ++ 0#2).signExtend 32
/-- Instruction-relative address: the a-form value plus the address of the instruction (R134). -/
def eaR (i16 : BitVec 16) (pc : Word) : Word := (i16 ++ 0#2).signExtend 32 + pc
/-- The local storage address of a quadword access: `ea & LSLR & 0xFFFFFFF0` (spec/20_memory.md R52). -/
def lsa (lslr ea : Word) : Word := ea &&& lslr &&& 0xFFFFFFF0#32

/-- The address sum of the d-form generate controls: `pref(RA) + sext_32(I7)` (R139). -/
def controlD (i7 : BitVec 7) (ra : Quad) : Word := pref ra + i7.signExtend 32
/-- The mask the generate controls form: bytes 0x10 to 0x1F, but from byte `t` on the `n` byte numbers that
begin at `first` (R139). -/
def insertMask (t n first : Nat) : Quad :=
  ofBytes fun j => if t ≤ j ∧ j < t + n then BitVec.ofNat 8 (first + (j - t)) else BitVec.ofNat 8 (0x10 + j)
/-- The insertion mask of a byte at an address (R140). -/
def byteMask (ea : Word) : Quad := insertMask (ea &&& 0xF#32).toNat 1 0x03
/-- The insertion mask of a halfword at an address, its low bit ignored (R142). -/
def halfMask (ea : Word) : Quad := insertMask (ea &&& 0xE#32).toNat 2 0x02
/-- The insertion mask of a word at an address, its two low bits ignored (R144). -/
def wordMask (ea : Word) : Quad := insertMask (ea &&& 0xC#32).toNat 4 0x00
/-- The insertion mask of a doubleword at an address, its three low bits ignored (R146). -/
def dwordMask (ea : Word) : Quad := insertMask (ea &&& 0x8#32).toNat 8 0x00

/-- The low `n` bits of a count field, as a number (spec/44_shift_rotate.md R260 (d)). -/
def lowBits {w : Nat} (n : Nat) (v : BitVec w) : Nat := (v.extractLsb' 0 n).toNat
/-- The low `n` bits of the two's complement of a count field (R260 (e)). -/
def negLowBits {w : Nat} (n : Nat) (v : BitVec w) : Nat := lowBits n (0#w - v)

/-- Target of a relative branch: `(pc + sext_32(I16 ++ 0b00)) & LSLR` (spec/45_compare_branch_halt.md R341). -/
def relTarget (lslr pc : Word) (i16 : BitVec 16) : Word := (pc + (i16 ++ 0#2).signExtend 32) &&& lslr
/-- Target of an absolute branch: `sext_32(I16 ++ 0b00) & LSLR` (R341). -/
def absTarget (lslr : Word) (i16 : BitVec 16) : Word := (i16 ++ 0#2).signExtend 32 &&& lslr
/-- Target of an indirect branch: the address masked with LSLR, its two low bits cleared (R341). -/
def indTarget (lslr a : Word) : Word := a &&& lslr &&& 0xFFFFFFFC#32

/-- Byte k of `RA ++ RB`, k in 0..31 (spec/43_logical.md R250). -/
def concatByte (ra rb : Quad) (k : Nat) : Byte := if k < 16 then byte ra k else byte rb (k - 16)
/-- The result byte a control byte of `shufb` selects (Table 5-1 in R250). -/
def shuffleByte (ra rb : Quad) (c : Byte) : Byte :=
  if c.extractLsb' 6 2 = 0b10#2 then 0x00#8
  else if c.extractLsb' 5 3 = 0b110#3 then 0xFF#8
  else if c.extractLsb' 5 3 = 0b111#3 then 0x80#8
  else concatByte ra rb (c.extractLsb' 0 5).toNat

/-- How many of the low `n` bits of a value are one. -/
def popcount {w : Nat} (v : BitVec w) : Nat → Nat
  | 0 => 0
  | n + 1 => popcount v n + (v.getLsbD n).toNat
/-- How many consecutive zero bits precede the first one bit among bits n-1 down to 0; `n` when all are zero
(spec/42_integer.md R196). -/
def leadingZeros (v : Word) : Nat → Nat
  | 0 => 0
  | n + 1 => if v.getLsbD n then 0 else leadingZeros v n + 1

/-- The scale of a conversion from integer: `(155 - I8) mod 256` (spec/47_floating_point.md R426). -/
def scaleFromInt (i8 : BitVec 8) : Nat := (155#8 - i8).toNat
/-- The scale of a conversion to integer: `(173 - I8) mod 256` (R427). -/
def scaleToInt (i8 : BitVec 8) : Nat := (173#8 - i8).toNat

end Sys2Proof.Machine
end

