-- ==== Sys2Proof/Machine/Flags.lean ====
section
/-!
DEFINITION. Truth masks, carries and borrows (the SPU has no condition codes, spec/10_state.md R26), and the
fields of FPSCR (R28).
-/

namespace Sys2Proof.Machine

/-- The value of a comparison: all ones for true, all zeros for false (R26). -/
def truth (w : Nat) (c : Bool) : BitVec w := if c then BitVec.allOnes w else 0#w

/-- One bit as a word: the value 1 or 0. -/
def bitWord (c : Bool) : Word := (BitVec.ofBool c).zeroExtend 32

/-- The carry out of `a + b + cin`, bit 32 of the 33-bit sum (spec/42_integer.md R180, R181). -/
def carryOut (a b : Word) (cin : Bool) : Bool :=
  (a.zeroExtend 33 + b.zeroExtend 33 + (BitVec.ofBool cin).zeroExtend 33).getLsbD 32

/-- Whether `b - a` needs no borrow, `bin` telling that none comes in (R183, R184). -/
def noBorrow (a b : Word) (bin : Bool) : Bool := if bin then a ≤ b else a < b

/-- The defined bits of FPSCR (R28). -/
def fpscrMask : Quad := 0x00000F07_00003F07_00003F07_00000F07#128

/-- RN0 for slice 0, RN1 for slice 1 (R28, spec/47_floating_point.md R401). -/
def roundMode (fpscr : Quad) (k : Nat) : BitVec 2 :=
  if k = 0 then (word fpscr 0).extractLsb' 10 2 else (word fpscr 0).extractLsb' 8 2

/-- OVF, UNF, DIFF of one single-precision slice as bits [2], [1], [0] of its word (R28). -/
def singleBits (f : SingleFlags) : Word :=
  (BitVec.ofBool f.ovf ++ (BitVec.ofBool f.unf ++ BitVec.ofBool f.diff)).zeroExtend 32

/-- The single-precision flags of the four slices, each in its word slot (R28). -/
def singleFlagQuad (f : Nat → SingleFlags) : Quad := ofWords fun k => singleBits (f k)

/-- DBZ of slice k is bit 11 - k of word 3 (R28). -/
def dbzQuad (z : Nat → Bool) : Quad :=
  ofWords fun j =>
    if j = 3 then
      (BitVec.ofBool (z 0) ++ (BitVec.ofBool (z 1) ++ (BitVec.ofBool (z 2) ++
        (BitVec.ofBool (z 3) ++ 0#8)))).zeroExtend 32
    else 0#32

/-- OVF, UNF, INX, INV, NaN, DENORM of one double-precision slice as bits [13] to [8] of its word (R28). -/
def doubleBits (f : DoubleFlags) : Word :=
  (BitVec.ofBool f.ovf ++ (BitVec.ofBool f.unf ++ (BitVec.ofBool f.inx ++ (BitVec.ofBool f.inv ++
    (BitVec.ofBool f.nan ++ (BitVec.ofBool f.denorm ++ 0#8)))))).zeroExtend 32

/-- The double-precision flags of slice 0 in word 1, of slice 1 in word 2 (R28). -/
def doubleFlagQuad (f : Nat → DoubleFlags) : Quad :=
  ofWords fun j => if j = 1 then doubleBits (f 0) else if j = 2 then doubleBits (f 1) else 0#32

/-- No single-precision flag. -/
def SingleFlags.none : SingleFlags := ⟨false, false, false⟩
/-- No double-precision flag. -/
def DoubleFlags.none : DoubleFlags := ⟨false, false, false, false, false, false⟩

end Sys2Proof.Machine
end

