-- ==== Sys2Proof/Machine/State.lean ====
section
/-!
DEFINITION. The state of the machine (spec/10_state.md R21), as plain data, the reasons a step can stop, and the
state at the start event that stands for reset (R44).
-/

namespace Sys2Proof.Machine

/-- Local storage: the bytes that the launch, a store or a device has supplied, addresses strictly rising
(`Memory.wf` in Machine/Ops.lean). An address that is not listed holds no supplied byte (R44). -/
abbrev Memory := List Host.Cell

/-- A special-purpose register an implementation defines: of 32 or of 128 bits (R36). -/
inductive Spr where
  | narrow (v : Word)
  | full (v : Quad)
  deriving DecidableEq, Repr

/-- The direction of a channel: what the SPU may do on it (R37). -/
inductive Direction where
  | read
  | write
  deriving DecidableEq, Repr

/-- The width of a channel (spec/48_control_channel.md R480, R482). -/
inductive Width where
  | w32
  | w128
  deriving DecidableEq, Repr

/-- An implemented channel: its fixed direction, width and capacity, its count and the data in flight, oldest
first (R37). A 32-bit datum stands in the preferred slot with zeros beside it. -/
structure Channel where
  dir : Direction
  width : Width
  capacity : Nat
  /-- Data waiting (read channel) or writes still accepted (write channel), what `rchcnt` reads (R479). -/
  count : Nat
  queue : List Quad
  deriving DecidableEq, Repr

/-- The event that made the SPU leave Running (spec/60_exceptions.md R490). -/
inductive StopEvent where
  /-- Stop(SIG), from `stop`: a normal end, with the 14-bit signal type. -/
  | signal (sig : BitVec 14)
  /-- Stop(STOPD), from `stopd`. -/
  | stopd
  /-- Halt(pc), from a halt whose condition is true, with the address of the halt. -/
  | halt (pc : Word)
  /-- InvalidChannel(pc, CA), from `rdch` or `wrch`, with the instruction's address and the channel. -/
  | invalidChannel (pc : Word) (ca : BitVec 7)
  /-- An external device stopped the SPU (R515). -/
  | external
  deriving DecidableEq, Repr

/-- The run state (R40). -/
inductive RunState where
  | running
  | stopped (event : StopEvent)
  deriving DecidableEq, Repr

/-- A channel instruction that waits for capacity (spec/48_control_channel.md R479). -/
inductive ChannelWait where
  | read (rt : Reg) (ca : BitVec 7)
  | write (ca : BitVec 7) (rt : Reg)
  deriving DecidableEq, Repr

/-- Who wrote a quadword of local storage. -/
inductive Writer where
  | spu
  | external
  deriving DecidableEq, Repr

/-- A value a quadword of local storage held before a write, and who performed that write (R73). -/
structure Overwritten where
  addr : Nat
  old : Quad
  writer : Writer
  deriving DecidableEq, Repr

/-- What an instruction word of local storage held before a write: none where a byte of it was not supplied
(R73, R44). -/
structure StaleWord where
  addr : Nat
  old : Option Word
  deriving DecidableEq, Repr

/-- One thing an external device does (R515). -/
inductive DeviceAct where
  /-- ExtWrite: the bytes of `value` that `bytes` selects (bit 15 is byte 0) go into the quadword at `addr`. -/
  | write (addr : Nat) (value : Quad) (bytes : BitVec 16)
  /-- A datum is supplied to a read channel. -/
  | supply (ca : BitVec 7) (v : Quad)
  /-- The oldest datum is taken from a write channel. -/
  | drain (ca : BitVec 7)
  /-- The external condition becomes true or false. -/
  | condition (v : Bool)
  /-- The SPU is stopped, or started. -/
  | stop
  | start
  /-- Execution state is changed. -/
  | setReg (r : Reg) (v : Quad)
  | setPc (v : Word)
  | setFpscr (v : Quad)
  | setSrr0 (v : Word)
  | setIe (v : Bool)
  | setSpr (sa : BitVec 7) (v : Quad)
  | setLslr (v : Word)
  deriving DecidableEq, Repr

/-- What the devices do during one step: before the boundary at which the interrupt is sampled, and between
that and the instruction; a start in the second list moves the boundary behind it (`State.turn`; log entry 33). -/
structure DeviceTurn where
  early : List DeviceAct
  late : List DeviceAct
  deriving DecidableEq, Repr

/-- The reasons the machine stops with a fault: the two events of R490 the spec defines for what the source
leaves undefined as an instruction, and the fetch of bytes nothing has supplied (R531). All are safe: nothing is
claimed about what hardware does there. -/
inductive Fault where
  /-- IllegalInstruction(pc, iw): raised by `step` when the fetched word matches no row of the opcode table
  (spec/30_encoding.md R105), and by the five optional instructions where the configuration lacks them (R107).
  Safe (log entry 3). -/
  | illegalInstruction (pc iw : Word)
  /-- Undefined(pc, D=E=1): raised by a taken indirect branch or `iret` with both feature bits set, before any
  state changes (spec/45_compare_branch_halt.md R342). Safe (log entry 4). -/
  | undefinedBranch (pc : Word)
  /-- Raised by `step` when the fetch at pc returns a word of which nothing has supplied a byte: hardware would
  execute an arbitrary word (spec/70_reset_and_hazards.md R531). Safe (log entry 27). -/
  | unsuppliedWord (pc : Word)
  deriving DecidableEq, Repr

/-- The reasons the model does not say what happens next. -/
inductive Refusal where
  /-- An instruction that has no meaning yet; every instruction has one. Raised by no arm. Safe. -/
  | notModelled (mnemonic : String)
  /-- Raised by `step` when a device changes LSLR while the SPU is running, which must not be done
  (spec/10_state.md R35). Safe (log entry 34). -/
  | lslrWhileRunning (v : Word)
  /-- Raised by `step` when the list of device acts names one that cannot happen: local storage that does not
  exist, a channel that is not there or has no room or no data, an LSLR of another form, a register that is not
  defined. Safe (log entry 33). -/
  | impossibleAct (act : DeviceAct)
  deriving DecidableEq, Repr

/-- The state of one SPU (R21), and the model's own fields `devices`, `free` and `cfg`. -/
structure State where
  /-- GPR[0..127] (R22). -/
  gpr : Vector Quad 128
  /-- The program counter (R24). -/
  pc : Word
  /-- LS (R39). -/
  ls : Memory
  /-- LSLR (R35). -/
  lslr : Word
  /-- FPSCR (R27). -/
  fpscr : Quad
  /-- SRR0 (R32). -/
  srr0 : Word
  /-- A value written to SRR0 through its channel and not yet synchronised (R43). -/
  srr0Pending : Option Word
  /-- IE, interrupts enabled (R33). -/
  ie : Bool
  /-- SPR[0..127]: the defined ones (R36). -/
  spr : Vector (Option Spr) 128
  /-- Channels 0 to 127 beside the two SRR0 channels: the implemented ones (R37). -/
  chan : Vector (Option Channel) 128
  /-- Running or stopped (R40). -/
  run : RunState
  /-- The channel instruction that waits (spec/48_control_channel.md R479). -/
  wait : Option ChannelWait
  /-- hist_d, newest first, without the values LS holds now (spec/20_memory.md R73). -/
  dataHist : List Overwritten
  /-- hist_f, newest first, without the words LS holds now (R73). -/
  fetchHist : List StaleWord
  /-- The external condition as it stands (R34). -/
  extCond : Bool
  /-- The model's own: what the devices do, the next step's turn first. -/
  devices : List DeviceTurn
  /-- The model's own: how many free values have been taken. -/
  free : Nat
  /-- The configuration (spec/00_scope.md R8). -/
  cfg : Config
  deriving DecidableEq, Repr

/-- The start state that stands for reset (R44, R530). The spec fixes IE, the run state and the empty pending
state; every other value is a DESIGN CHOICE named in log entries 25 to 30 and 37. -/
def State.reset : State where
  gpr := Vector.replicate 128 0#128
  pc := 0#32
  ls := []
  lslr := 0x0003FFFF#32
  fpscr := 0#128
  srr0 := 0#32
  srr0Pending := none
  ie := false
  spr := Vector.replicate 128 none
  chan := Vector.replicate 128 none
  run := .running
  wait := none
  dataHist := []
  fetchHist := []
  extCond := false
  devices := []
  free := 0
  cfg := Config.reference

end Sys2Proof.Machine
end

