-- ==== Sys2Proof/Machine/Ops.lean ====
section
/-!
DEFINITION. The operations over registers, local storage, the histories of unsynchronised storage, channels,
special-purpose registers and the run state; taking the interrupt and returning from it.
-/

namespace Sys2Proof.Machine

/-- What an instruction's meaning answers. -/
abbrev Result := Host.Outcome State Fault Refusal

/- General registers and the program counter. -/

/-- `GPR[r]` (spec/00_scope.md R16). No register is hardwired (spec/10_state.md R22). -/
def State.reg (s : State) (r : Reg) : Quad := s.gpr[r.toNat]

/-- `GPR[r] <- v`, all 128 bits. -/
def State.setReg (s : State) (r : Reg) (v : Quad) : State := { s with gpr := s.gpr.set r.toNat v }

/-- The address of the next instruction, `(pc + 4) & LSLR` (spec/10_state.md R24). That every instruction
advances so is the spec's decision D35: DESIGN CHOICE (log entry 35). -/
def State.nextPc (s : State) : Word := (s.pc + 4#32) &&& s.lslr

/-- Sequential execution: `pc <- (pc + 4) & LSLR` (R24). -/
def State.advance (s : State) : State := { s with pc := s.nextPc }

/-- The end of an instruction that writes RT and nothing else. -/
def State.write (s : State) (rt : Reg) (v : Quad) : Result := .next (s.setReg rt v).advance

/-- Floating-point flags are sticky: `FPSCR <- FPSCR | flags` (R29). -/
def State.addFlags (s : State) (flags : Quad) : State := { s with fpscr := s.fpscr ||| flags }

/-- The end of a floating-point instruction: RT and the flags in one step (spec/47_floating_point.md R405). -/
def State.writeFlags (s : State) (rt : Reg) (v flags : Quad) : Result :=
  .next ((s.addFlags flags).setReg rt v).advance

/-- One more free value has been taken. -/
def State.takeFree (s : State) : State := { s with free := s.free + 1 }

/- Local storage as data. -/

/-- The byte something has supplied at an address: the launch, a store, a device (spec/10_state.md R44). -/
def Memory.supplied (m : Memory) (a : Nat) : Option Byte := (m.find? fun c => c.1 == a).map (·.2)

/-- The byte a load sees at an address: where nothing has supplied one, a free value of the address
(spec/70_reset_and_hazards.md R531; log entry 27). -/
def Memory.byteAt (m : Memory) (a : Nat) : Byte := (m.supplied a).getD (Config.unsuppliedByte a)

/-- A cell put in the place its address gives it. -/
def Memory.insertCell (c : Host.Cell) : Memory → Memory
  | [] => [c]
  | d :: m => if c.1 < d.1 then c :: d :: m else d :: Memory.insertCell c m

/-- The byte at an address becomes `v`. -/
def Memory.setByte (m : Memory) (a : Nat) (v : Byte) : Memory :=
  Memory.insertCell (a, v) (m.filter (fun c => c.1 != a))

/-- Bytes written at rising addresses from `a` on. -/
def Memory.writeBytes (m : Memory) (a : Nat) : List Byte → Memory
  | [] => m
  | b :: bs => Memory.writeBytes (m.setByte a b) (a + 1) bs

/-- The canonical form: addresses strictly rising. An unlisted address holds no supplied byte, so no entry says
what an unlisted address says. -/
def Memory.wf : Memory → Bool
  | [] => true
  | c :: m => m.all (fun d => decide (c.1 < d.1)) && Memory.wf m

/-- The quadword at an address: `LS[a]` is register byte 0, the most significant (spec/20_memory.md R53, R54). -/
def Memory.quadAt (m : Memory) (a : Nat) : Quad := ofBytes fun j => m.byteAt (a + j)

/-- The instruction word at an address, big-endian (R56); none where a byte of it is not supplied (R531). -/
def Memory.wordAt (m : Memory) (a : Nat) : Option Word :=
  match m.supplied a, m.supplied (a + 1), m.supplied (a + 2), m.supplied (a + 3) with
  | some b0, some b1, some b2, some b3 => some (wordOfBytes b0 b1 b2 b3)
  | _, _, _, _ => none

/-- The 16 bytes of a quadword in the order of their addresses (R53). -/
def quadBytes (q : Quad) : List Byte := (List.range 16).map (byte q)

/-- `LS[a + j] <- byte(v, j)` for j in 0..15 (R54). -/
def Memory.writeQuad (m : Memory) (a : Nat) (v : Quad) : Memory := m.writeBytes a (quadBytes v)

/-- The first `n` bytes of the quadword at `a` that `bytes` selects (bit 15 is byte 0) become those of `v`; the
others, supplied or not, stay. -/
def Memory.writeSelected (m : Memory) (a : Nat) (bytes : BitVec 16) (v : Quad) : Nat → Memory
  | 0 => m
  | n + 1 =>
    if bytes.getLsbD (15 - n) then (m.writeSelected a bytes v n).setByte (a + n) (byte v n)
    else m.writeSelected a bytes v n

/- Storage as the SPU sees it: the histories of R73. -/

/-- The words of the quadword at `a` that differ between `m` and `n`, as they are in `m` (R73, hist_f). -/
def staleWords (m n : Memory) (a : Nat) : List StaleWord :=
  ((List.range 4).filter fun j => m.wordAt (a + 4 * j) ≠ n.wordAt (a + 4 * j)).map fun j =>
    ⟨a + 4 * j, m.wordAt (a + 4 * j)⟩

/-- A write in the quadword at `a`, after which local storage is `m`: the old values enter the histories (R73). -/
def State.performWrite (s : State) (w : Writer) (a : Nat) (m : Memory) : State :=
  { s with
    ls := m
    dataHist := ⟨a, s.ls.quadAt a, w⟩ :: s.dataHist
    fetchHist := staleWords s.ls m a ++ s.fetchHist }

/-- The values older than the current one that a Load of the quadword at `a` may return: back through external
writes to the SPU's own latest Store (R73 (a)). -/
def loadOlder (a : Nat) : List Overwritten → List Quad
  | [] => []
  | o :: h =>
    if o.addr = a then
      match o.writer with
      | .spu => []
      | .external => o.old :: loadOlder a h
    else loadOlder a h

/-- The values older than the current one that an external read of the quadword at `a` may return (R73 (b)). -/
def readOlder (a : Nat) (h : List Overwritten) : List Quad :=
  (h.filter fun o => o.addr == a).map (·.old)

/-- The words older than the current one that a Fetch at `a` may return (R73 (c)). -/
def fetchOlder (a : Nat) (h : List StaleWord) : List (Option Word) :=
  (h.filter fun o => o.addr == a).map (·.old)

/-- The values a Load of the quadword at `a` may return, newest first (R73 (a)). -/
def State.loadCandidates (s : State) (a : Nat) : List Quad := s.ls.quadAt a :: loadOlder a s.dataHist
/-- The values an external read of the quadword at `a` may return, newest first (R73 (b)). -/
def State.extReadCandidates (s : State) (a : Nat) : List Quad := s.ls.quadAt a :: readOlder a s.dataHist
/-- The words a Fetch at `a` may return, newest first (R73 (c)). -/
def State.fetchCandidates (s : State) (a : Nat) : List (Option Word) := s.ls.wordAt a :: fetchOlder a s.fetchHist

/-- One of the values an access may return: the only one, or a free choice (R73; log entry 31). -/
def State.choose {α : Type} (s : State) (newest : α) (older : List α) : α × State :=
  match older with
  | [] => (newest, s)
  | _ :: _ =>
    ((newest :: older).getD (Config.freeChoice s.free % (older.length + 1)) newest, s.takeFree)

/-- `MemRead(ea, 16)` (R54): what the Load returns, and the state after it. -/
def State.load (s : State) (ea : Word) : Quad × State :=
  let a := (lsa s.lslr ea).toNat
  s.choose (s.ls.quadAt a) (loadOlder a s.dataHist)

/-- `MemWrite(ea, 16, v)` (R54). -/
def State.store (s : State) (ea : Word) (v : Quad) : State :=
  s.performWrite .spu (lsa s.lslr ea).toNat (s.ls.writeQuad (lsa s.lslr ea).toNat v)

/-- A load instruction: RT receives the quadword (spec/40_load_store.md R130). -/
def State.loadTo (s : State) (rt : Reg) (ea : Word) : Result :=
  (s.load ea).2.write rt (s.load ea).1

/-- A store instruction: the quadword of RT goes to local storage; no register changes (R130). -/
def State.storeFrom (s : State) (rt : Reg) (ea : Word) : Result :=
  .next (s.store ea (s.reg rt)).advance

/-- `Fetch(pc)` (R56, R73 (c)): the word, none where a byte of it was not supplied (R531), and the state after
the fetch. -/
def State.fetch (s : State) : Option Word × State :=
  s.choose (s.ls.wordAt s.pc.toNat) (fetchOlder s.pc.toNat s.fetchHist)

/- Synchronisation. -/

/-- A sync point of R73 that is no fetch sync point: `dsync` (R68). -/
def State.dataSync (s : State) : State := { s with dataHist := [] }
/-- A sync point and a fetch sync point of R73: `sync` (R69). -/
def State.fetchSync (s : State) : State := { s with dataHist := [], fetchHist := [] }
/-- `ChannelSync()`: a pending value of SRR0 takes effect (spec/48_control_channel.md R483). -/
def State.channelSync (s : State) : State :=
  match s.srr0Pending with
  | some v => { s with srr0 := v, srr0Pending := none }
  | none => s
/-- `sync.c`: channel synchronisation, then instruction synchronisation (spec/20_memory.md R70). -/
def State.syncC (s : State) : State := s.channelSync.fetchSync

/- The run state. -/

/-- A stop event: the SPU leaves Running; it performs a `sync.c` (spec/10_state.md R40, spec/20_memory.md R70). -/
def State.stopWith (s : State) (ev : StopEvent) : State := { s.syncC with run := .stopped ev, wait := none }

/-- A halt instruction (spec/45_compare_branch_halt.md R311): stops at the halt when the condition holds. That
no following instruction runs is the spec's decision D14: DESIGN CHOICE (log entry 12). -/
def State.haltIf (s : State) (c : Bool) : Result :=
  .next (if c then s.stopWith (.halt s.pc) else s.advance)

/- Branches. -/

/-- A conditional branch (R341): the target if the condition holds, the next instruction otherwise. -/
def State.branchIf (s : State) (c : Bool) (target : Word) : Result :=
  .next (if c then { s with pc := target } else s.advance)

/-- The link value: the next instruction's address in the preferred slot, zeros beside it (R341 (c)). -/
def State.link (s : State) : Quad := prefQuad s.nextPc

/-- `SetIE(D, E)` without its undefined case (R342). -/
def newIe (d e ie : Bool) : Bool := if e then true else if d then false else ie

/-- A taken indirect branch: `SetIE(D, E)`, then the target; D = E = 1 is the event Undefined, before anything
changes (R342, spec/60_exceptions.md R501). The fault is safe (log entry 4). -/
def State.branchIndirect (s : State) (d e : Bool) (target : Word) : Result :=
  if d && e then .fault (.undefinedBranch s.pc)
  else .next { s with pc := target, ie := newIe d e s.ie }

/-- A conditional indirect branch: D and E act only when it is taken (R342). -/
def State.branchIndirectIf (s : State) (c : Bool) (d e : Bool) (target : Word) : Result :=
  if c then s.branchIndirect d e target else .next s.advance

/- SRR0, the interrupt, and the return from it. -/

/-- SRR0 as `iret` and `rdch SPU_RdSRR0` see it: between a `wrch` to SPU_WrSRR0 and the channel synchronisation
a free value (spec/48_control_channel.md R483; log entry 9). -/
def State.srr0Value (s : State) : Word := if s.srr0Pending = none then s.srr0 else Config.freeWord s.free

/-- The state after SRR0 was seen: a free value may have been taken. -/
def State.sawSrr0 (s : State) : State := if s.srr0Pending = none then s else s.takeFree

/-- Interrupts are enabled, the external condition is true, and an instruction boundary has been reached: the
SPU runs and waits for no channel (spec/60_exceptions.md R500, R501). -/
def State.interruptDue (s : State) : Bool :=
  s.ie && s.extCond && (s.run == .running) && (s.wait == none)

/-- Interrupt entry: SRR0 receives the address of the next instruction, interrupts are disabled, execution
goes to address 0 (R500). Taken while a value written to SRR0 is pending, it leaves SRR0 unspecified even after
the channel synchronisation (spec/48_control_channel.md R483): the pending value becomes a free one. -/
def State.takeInterrupt (s : State) : State :=
  match s.srr0Pending with
  | none => { s with srr0 := s.pc, ie := false, pc := 0#32 }
  | some _ =>
    { s with srr0 := s.pc, srr0Pending := some (Config.freeWord s.free), free := s.free + 1,
             ie := false, pc := 0#32 }

/-- Interrupt return: an indirect branch to the address in SRR0 (spec/45_compare_branch_halt.md R354); the
masks are the spec's decision D36 (log entry 8). -/
def State.returnFromInterrupt (s : State) (d e : Bool) : Result :=
  s.sawSrr0.branchIndirect d e (indTarget s.lslr s.srr0Value)

/- Special-purpose registers. -/

/-- What `mfspr` reads: 0 where the register is not defined (spec/48_control_channel.md R476). -/
def State.readSpr (s : State) (sa : BitVec 7) : Quad :=
  match s.spr[sa.toNat] with
  | some (.narrow v) => prefQuad v
  | some (.full v) => v
  | none => 0#128

/-- What `mtspr` writes: nothing where the register is not defined (R477). -/
def State.writeSpr (s : State) (sa : BitVec 7) (v : Quad) : State :=
  match s.spr[sa.toNat] with
  | some (.narrow _) => { s with spr := s.spr.set sa.toNat (some (.narrow (pref v))) }
  | some (.full _) => { s with spr := s.spr.set sa.toNat (some (.full v)) }
  | none => s

/- Channels. -/

/-- SPU_WrSRR0 (spec/10_state.md R38). -/
def wrSrr0 : BitVec 7 := 14#7
/-- SPU_RdSRR0; the number is the spec's, from general knowledge: PRESUMED (log entry 7). -/
def rdSrr0 : BitVec 7 := 15#7

/-- The value of a datum on a channel: with a 32-bit channel the preferred slot, zeros beside it (R480, R482). -/
def Width.narrow (w : Width) (v : Quad) : Quad :=
  match w with
  | .w32 => prefQuad (pref v)
  | .w128 => v

/-- `ChannelCount(CA)`: 1 for the two SRR0 channels, 0 for an unimplemented one (R481; log entry 7). -/
def State.channelCount (s : State) (ca : BitVec 7) : Nat :=
  if ca = wrSrr0 ∨ ca = rdSrr0 then 1
  else match s.chan[ca.toNat] with
    | some c => c.count
    | none => 0

/-- The SPU stops at a channel instruction that names an invalid channel (R480, R482). That RT is not written
and nothing after it runs is the spec's decision D15: DESIGN CHOICE (log entry 13). -/
def State.invalidChannel (s : State) (ca : BitVec 7) : State := s.stopWith (.invalidChannel s.pc ca)

/-- A channel instruction waits for capacity: same pc, still Running (R479; log entry 14). -/
def State.block (s : State) (w : ChannelWait) : State := { s with wait := some w }

/-- A channel instruction has completed. -/
def State.channelDone (s : State) : State := { s with wait := none }.advance

/-- `ChannelRead(CA)` into RT (R480, R483). -/
def State.readChannel (s : State) (rt : Reg) (ca : BitVec 7) : State :=
  if ca = rdSrr0 then (s.sawSrr0.setReg rt (prefQuad s.srr0Value)).channelDone
  else if ca = wrSrr0 then s.invalidChannel ca
  else match s.chan[ca.toNat] with
    | none => s.invalidChannel ca
    | some c =>
      match c.dir with
      | .write => s.invalidChannel ca
      | .read =>
        match c.count, c.queue with
        | n + 1, d :: ds =>
          ({ s with chan := s.chan.set ca.toNat (some { c with count := n, queue := ds }) }.setReg rt
            (c.width.narrow d)).channelDone
        | _, _ => s.block (.read rt ca)

/-- `ChannelWrite(CA, GPR[RT])` (R482, R483). -/
def State.writeChannel (s : State) (ca : BitVec 7) (rt : Reg) : State :=
  if ca = wrSrr0 then { s with srr0Pending := some (pref (s.reg rt)) }.channelDone
  else if ca = rdSrr0 then s.invalidChannel ca
  else match s.chan[ca.toNat] with
    | none => s.invalidChannel ca
    | some c =>
      match c.dir with
      | .read => s.invalidChannel ca
      | .write =>
        match c.count with
        | n + 1 =>
          { s with chan := s.chan.set ca.toNat (some { c with
              count := n
              queue := c.queue ++ [c.width.narrow (s.reg rt)] }) }.channelDone
        | 0 => s.block (.write ca rt)

/-- A channel instruction that waits is tried again (R479). -/
def State.retry (s : State) : ChannelWait → State
  | .read rt ca => s.readChannel rt ca
  | .write ca rt => s.writeChannel ca rt

end Sys2Proof.Machine
end

