-- ==== Sys2Proof/Machine/Devices.lean ====
section
/-!
DEFINITION. What external devices do to the SPU (spec/20_memory.md R74, spec/60_exceptions.md R515). The ISA does
not define their behaviour: the acts are data of the state, any list of them being allowed (log entries 32, 33).
-/

namespace Sys2Proof.Machine

/-- A legal LSLR value: `2^n - 1` with `4 <= n <= 32`, at most the real size less one (spec/10_state.md R35). -/
def legalLslr (cfg : Config) (v : Word) : Bool :=
  (List.range 29).any (fun i => v.toNat == 2 ^ (i + 4) - 1) && decide (v.toNat < cfg.lsRealSize)

/-- A start event: execution begins at pc, after a `sync.c` (spec/10_state.md R40). A running SPU is not started. -/
def State.start (s : State) : State :=
  match s.run with
  | .running => s
  | .stopped _ => { s.syncC with run := .running }

/-- A stop from outside, at an instruction boundary (R515). A stopped SPU keeps the event that stopped it. -/
def State.stopExternal (s : State) : State :=
  match s.run with
  | .running => s.stopWith .external
  | .stopped _ => s

/-- A datum supplied to channel `ca`: an implemented read channel with room takes it and its count rises
(spec/48_control_channel.md R479). -/
def State.supply (s : State) (ca : BitVec 7) (v : Quad) : Option State :=
  match s.chan[ca.toNat] with
  | none => none
  | some c =>
    match c.dir with
    | .write => none
    | .read =>
      if c.count < c.capacity then
        some { s with chan := s.chan.set ca.toNat (some { c with
          count := c.count + 1
          queue := c.queue ++ [c.width.narrow v] }) }
      else none

/-- The oldest datum taken from channel `ca`: an implemented write channel that holds one; its count rises (R479). -/
def State.drain (s : State) (ca : BitVec 7) : Option State :=
  match s.chan[ca.toNat] with
  | none => none
  | some c =>
    match c.dir with
    | .read => none
    | .write =>
      match c.queue with
      | [] => none
      | _ :: ds => some { s with chan := s.chan.set ca.toNat (some { c with count := c.count + 1, queue := ds }) }

/-- SRR0 changed from outside. While a value written through the channel is pending the order of the two is open:
the pending value becomes a free one (log entry 33). -/
def State.setSrr0 (s : State) (v : Word) : State :=
  match s.srr0Pending with
  | none => { s with srr0 := v }
  | some _ => { s with srr0 := v, srr0Pending := some (Config.freeWord s.free), free := s.free + 1 }

/-- LSLR changed while the SPU is stopped; pc stays an address within the effective storage (R24, R35). -/
def State.setLslr (s : State) (v : Word) : State := { s with lslr := v, pc := s.pc &&& v }

/-- One act of a device: the state after it, or why the model does not take it. R515 gives a change of pc while the
SPU is stopped; whether a running SPU, or one that waits for a channel (spec/48_control_channel.md R479), can have
its pc changed the spec leaves open. DESIGN CHOICE (log entry 40): it can at any time, and a channel instruction
that waits goes on waiting, completes as recorded, and is followed by the word after the new pc. -/
def State.applyAct (s : State) (act : DeviceAct) : Except Refusal State :=
  match act with
  | .write a v bytes =>
    if a % 16 = 0 ∧ a + 16 ≤ s.cfg.lsRealSize then
      .ok (s.performWrite .external a (s.ls.writeSelected a bytes v 16))
    else .error (.impossibleAct act)
  | .supply ca v =>
    match s.supply ca v with
    | some t => .ok t
    | none => .error (.impossibleAct act)
  | .drain ca =>
    match s.drain ca with
    | some t => .ok t
    | none => .error (.impossibleAct act)
  | .condition v => .ok { s with extCond := v }
  | .stop => .ok s.stopExternal
  | .start => .ok s.start
  | .setReg r v => .ok (s.setReg r v)
  | .setPc v => .ok { s with pc := indTarget s.lslr v }
  | .setFpscr v => .ok { s with fpscr := v &&& fpscrMask }
  | .setSrr0 v => .ok (s.setSrr0 v)
  | .setIe v => .ok { s with ie := v }
  | .setSpr sa v =>
    if s.spr[sa.toNat] = none then .error (.impossibleAct act) else .ok (s.writeSpr sa v)
  | .setLslr v =>
    if s.run = .running then .error (.lslrWhileRunning v)
    else if legalLslr s.cfg v then .ok (s.setLslr v)
    else .error (.impossibleAct act)

/-- Acts in the order of the list. -/
def State.applyActs (s : State) : List DeviceAct → Except Refusal State
  | [] => .ok s
  | a :: as =>
    match s.applyAct a with
    | .ok t => t.applyActs as
    | .error e => .error e

/-- A list of acts cut after its last start: the acts up to that start, and the rest, which has none. -/
def cutAtStart : List DeviceAct → List DeviceAct × List DeviceAct
  | [] => ([], [])
  | a :: as =>
    let r := cutAtStart as
    if r.1 = [] ∧ a ≠ .start then ([], a :: as) else (a :: r.1, r.2)

/-- What the devices do during the step that begins in this state: the acts before the boundary at which the interrupt
is sampled, and those after it. A start event is followed by a boundary, so that no instruction runs after it
unsampled (spec/60_exceptions.md R501, spec/92_eei_decisions.md D13): where the late acts of a turn hold a start, the
boundary stands behind the last one. That it stands there: DESIGN CHOICE (log entry 33). -/
def State.turn (s : State) : DeviceTurn :=
  let turn := s.devices.headD ⟨[], []⟩
  ⟨turn.early ++ (cutAtStart turn.late).1, (cutAtStart turn.late).2⟩

/-- The state with that turn taken off the list. -/
def State.dropTurn (s : State) : State := { s with devices := s.devices.tail }

end Sys2Proof.Machine
end

