-- ==== Sys2Proof/Machine/Branch.lean ====
section
/-!
DEFINITION. Branches and branch hints (spec/45_compare_branch_halt.md, spec/46_branch_hints.md).
-/

namespace Sys2Proof.Machine

/-- `br symbol`: Branch Relative (R349). -/
def execBr (i16 : BitVec 16) (s : State) : Result :=
  s.branchIf true (relTarget s.lslr s.pc i16)

/-- `bra symbol`: Branch Absolute (R350). -/
def execBra (i16 : BitVec 16) (s : State) : Result :=
  s.branchIf true (absTarget s.lslr i16)

/-- `brsl rt,symbol`: Branch Relative and Set Link (R351). -/
def execBrsl (rt : Reg) (i16 : BitVec 16) (s : State) : Result :=
  (s.setReg rt s.link).branchIf true (relTarget s.lslr s.pc i16)

/-- `brasl rt,symbol`: Branch Absolute and Set Link (R352). -/
def execBrasl (rt : Reg) (i16 : BitVec 16) (s : State) : Result :=
  (s.setReg rt s.link).branchIf true (absTarget s.lslr i16)

/-- `bi ra`: Branch Indirect (R353). -/
def execBi (ra : Reg) (d e : Bool) (s : State) : Result :=
  s.branchIndirect d e (indTarget s.lslr (pref (s.reg ra)))

/-- `iret ra`: Interrupt Return (R354). RA is not read. -/
def execIret (_ra : Reg) (d e : Bool) (s : State) : Result :=
  s.returnFromInterrupt d e

/-- `bisled rt,ra`: Branch Indirect and Set Link if External Data (R355). The link is written whether or not the branch is taken. -/
def execBisled (rt ra : Reg) (d e : Bool) (s : State) : Result :=
  (s.setReg rt s.link).branchIndirectIf s.extCond d e (indTarget s.lslr (pref (s.reg ra)))

/-- `bisl rt,ra`: Branch Indirect and Set Link (R356). -/
def execBisl (rt ra : Reg) (d e : Bool) (s : State) : Result :=
  (s.setReg rt s.link).branchIndirect d e (indTarget s.lslr (pref (s.reg ra)))

/-- `brnz rt,symbol`: Branch If Not Zero Word (R357). -/
def execBrnz (rt : Reg) (i16 : BitVec 16) (s : State) : Result :=
  s.branchIf (pref (s.reg rt) != 0#32) (relTarget s.lslr s.pc i16)

/-- `brz rt,symbol`: Branch If Zero Word (R358). -/
def execBrz (rt : Reg) (i16 : BitVec 16) (s : State) : Result :=
  s.branchIf (pref (s.reg rt) == 0#32) (relTarget s.lslr s.pc i16)

/-- `brhnz rt,symbol`: Branch If Not Zero Halfword (R359). -/
def execBrhnz (rt : Reg) (i16 : BitVec 16) (s : State) : Result :=
  s.branchIf (hw (s.reg rt) 1 != 0#16) (relTarget s.lslr s.pc i16)

/-- `brhz rt,symbol`: Branch If Zero Halfword (R360). -/
def execBrhz (rt : Reg) (i16 : BitVec 16) (s : State) : Result :=
  s.branchIf (hw (s.reg rt) 1 == 0#16) (relTarget s.lslr s.pc i16)

/-- `biz rt,ra`: Branch Indirect If Zero (R361). -/
def execBiz (rt ra : Reg) (d e : Bool) (s : State) : Result :=
  s.branchIndirectIf (pref (s.reg rt) == 0#32) d e (indTarget s.lslr (pref (s.reg ra)))

/-- `binz rt,ra`: Branch Indirect If Not Zero (R362). -/
def execBinz (rt ra : Reg) (d e : Bool) (s : State) : Result :=
  s.branchIndirectIf (pref (s.reg rt) != 0#32) d e (indTarget s.lslr (pref (s.reg ra)))

/-- `bihz rt,ra`: Branch Indirect If Zero Halfword (R363). -/
def execBihz (rt ra : Reg) (d e : Bool) (s : State) : Result :=
  s.branchIndirectIf (hw (s.reg rt) 1 == 0#16) d e (indTarget s.lslr (pref (s.reg ra)))

/-- `bihnz rt,ra`: Branch Indirect If Not Zero Halfword (R364). -/
def execBihnz (rt ra : Reg) (d e : Bool) (s : State) : Result :=
  s.branchIndirectIf (hw (s.reg rt) 1 != 0#16) d e (indTarget s.lslr (pref (s.reg ra)))

/-- `hbr brinst,brtarg`: Hint for Branch (r-form) (R381). No effect (R384; log entry 6). -/
def execHbr (_roh : BitVec 2) (_rol : BitVec 7) (_ra : Reg) (_p : Bool) (s : State) : Result :=
  .next s.advance

/-- `hbra brinst,brtarg`: Hint for Branch (a-form) (R382). No effect (R384; log entry 6). -/
def execHbra (_roh : BitVec 2) (_rol : BitVec 7) (_i16 : BitVec 16) (s : State) : Result :=
  .next s.advance

/-- `hbrr brinst,brtarg`: Hint for Branch Relative (R383). No effect (R384; log entry 6). -/
def execHbrr (_roh : BitVec 2) (_rol : BitVec 7) (_i16 : BitVec 16) (s : State) : Result :=
  .next s.advance

end Sys2Proof.Machine
end

