-- ==== Sys2Proof/Machine/Compare.lean ====
section
/-!
DEFINITION. Halts and compares (spec/45_compare_branch_halt.md).
-/

namespace Sys2Proof.Machine

/-- `heq ra,rb`: Halt If Equal (R312). -/
def execHeq (ra rb : Reg) (s : State) : Result :=
  s.haltIf (pref (s.reg ra) == pref (s.reg rb))

/-- `heqi ra,symbol`: Halt If Equal Immediate (R313). -/
def execHeqi (ra : Reg) (i10 : BitVec 10) (s : State) : Result :=
  s.haltIf (pref (s.reg ra) == imm32 i10)

/-- `hgt ra,rb`: Halt If Greater Than (R314). -/
def execHgt (ra rb : Reg) (s : State) : Result :=
  s.haltIf ((pref (s.reg rb)).slt (pref (s.reg ra)))

/-- `hgti ra,symbol`: Halt If Greater Than Immediate (R315). -/
def execHgti (ra : Reg) (i10 : BitVec 10) (s : State) : Result :=
  s.haltIf ((imm32 i10).slt (pref (s.reg ra)))

/-- `hlgt ra,rb`: Halt If Logically Greater Than (R316). -/
def execHlgt (ra rb : Reg) (s : State) : Result :=
  s.haltIf ((pref (s.reg rb)).ult (pref (s.reg ra)))

/-- `hlgti ra,symbol`: Halt If Logically Greater Than Immediate (R317). -/
def execHlgti (ra : Reg) (i10 : BitVec 10) (s : State) : Result :=
  s.haltIf ((imm32 i10).ult (pref (s.reg ra)))

/-- `ceqb rt,ra,rb`: Compare Equal Byte (R319). -/
def execCeqb (rt ra rb : Reg) (s : State) : Result :=
  s.write rt (ofBytes fun j => truth 8 (byte (s.reg ra) j == byte (s.reg rb) j))

/-- `ceqbi rt,ra,value`: Compare Equal Byte Immediate (R320). -/
def execCeqbi (rt ra : Reg) (i10 : BitVec 10) (s : State) : Result :=
  s.write rt (ofBytes fun j => truth 8 (byte (s.reg ra) j == imm8 i10))

/-- `ceqh rt,ra,rb`: Compare Equal Halfword (R321). -/
def execCeqh (rt ra rb : Reg) (s : State) : Result :=
  s.write rt (ofHalfs fun j => truth 16 (hw (s.reg ra) j == hw (s.reg rb) j))

/-- `ceqhi rt,ra,value`: Compare Equal Halfword Immediate (R322). -/
def execCeqhi (rt ra : Reg) (i10 : BitVec 10) (s : State) : Result :=
  s.write rt (ofHalfs fun j => truth 16 (hw (s.reg ra) j == imm16 i10))

/-- `ceq rt,ra,rb`: Compare Equal Word (R323). -/
def execCeq (rt ra rb : Reg) (s : State) : Result :=
  s.write rt (ofWords fun j => truth 32 (word (s.reg ra) j == word (s.reg rb) j))

/-- `ceqi rt,ra,value`: Compare Equal Word Immediate (R324). -/
def execCeqi (rt ra : Reg) (i10 : BitVec 10) (s : State) : Result :=
  s.write rt (ofWords fun j => truth 32 (word (s.reg ra) j == imm32 i10))

/-- `cgtb rt,ra,rb`: Compare Greater Than Byte (R325). -/
def execCgtb (rt ra rb : Reg) (s : State) : Result :=
  s.write rt (ofBytes fun j => truth 8 ((byte (s.reg rb) j).slt (byte (s.reg ra) j)))

/-- `cgtbi rt,ra,value`: Compare Greater Than Byte Immediate (R326). -/
def execCgtbi (rt ra : Reg) (i10 : BitVec 10) (s : State) : Result :=
  s.write rt (ofBytes fun j => truth 8 ((imm8 i10).slt (byte (s.reg ra) j)))

/-- `cgth rt,ra,rb`: Compare Greater Than Halfword (R327). -/
def execCgth (rt ra rb : Reg) (s : State) : Result :=
  s.write rt (ofHalfs fun j => truth 16 ((hw (s.reg rb) j).slt (hw (s.reg ra) j)))

/-- `cgthi rt,ra,value`: Compare Greater Than Halfword Immediate (R328). -/
def execCgthi (rt ra : Reg) (i10 : BitVec 10) (s : State) : Result :=
  s.write rt (ofHalfs fun j => truth 16 ((imm16 i10).slt (hw (s.reg ra) j)))

/-- `cgt rt,ra,rb`: Compare Greater Than Word (R329). -/
def execCgt (rt ra rb : Reg) (s : State) : Result :=
  s.write rt (ofWords fun j => truth 32 ((word (s.reg rb) j).slt (word (s.reg ra) j)))

/-- `cgti rt,ra,value`: Compare Greater Than Word Immediate (R330). -/
def execCgti (rt ra : Reg) (i10 : BitVec 10) (s : State) : Result :=
  s.write rt (ofWords fun j => truth 32 ((imm32 i10).slt (word (s.reg ra) j)))

/-- `clgtb rt,ra,rb`: Compare Logical Greater Than Byte (R331). -/
def execClgtb (rt ra rb : Reg) (s : State) : Result :=
  s.write rt (ofBytes fun j => truth 8 ((byte (s.reg rb) j).ult (byte (s.reg ra) j)))

/-- `clgtbi rt,ra,value`: Compare Logical Greater Than Byte Immediate (R332). -/
def execClgtbi (rt ra : Reg) (i10 : BitVec 10) (s : State) : Result :=
  s.write rt (ofBytes fun j => truth 8 ((imm8 i10).ult (byte (s.reg ra) j)))

/-- `clgth rt,ra,rb`: Compare Logical Greater Than Halfword (R333). -/
def execClgth (rt ra rb : Reg) (s : State) : Result :=
  s.write rt (ofHalfs fun j => truth 16 ((hw (s.reg rb) j).ult (hw (s.reg ra) j)))

/-- `clgthi rt,ra,value`: Compare Logical Greater Than Halfword Immediate (R334). -/
def execClgthi (rt ra : Reg) (i10 : BitVec 10) (s : State) : Result :=
  s.write rt (ofHalfs fun j => truth 16 ((imm16 i10).ult (hw (s.reg ra) j)))

/-- `clgt rt,ra,rb`: Compare Logical Greater Than Word (R335). -/
def execClgt (rt ra rb : Reg) (s : State) : Result :=
  s.write rt (ofWords fun j => truth 32 ((word (s.reg rb) j).ult (word (s.reg ra) j)))

/-- `clgti rt,ra,value`: Compare Logical Greater Than Word Immediate (R336). -/
def execClgti (rt ra : Reg) (i10 : BitVec 10) (s : State) : Result :=
  s.write rt (ofWords fun j => truth 32 ((imm32 i10).ult (word (s.reg ra) j)))

end Sys2Proof.Machine
end

