-- ==== Sys2Proof/Machine/Constant.lean ====
section
/-!
DEFINITION. Constant formation (spec/41_constant_formation.md).
-/

namespace Sys2Proof.Machine

/-- `ilh rt,symbol`: Immediate Load Halfword (R161). -/
def execIlh (rt : Reg) (i16 : BitVec 16) (s : State) : Result :=
  s.write rt (ofHalfs fun _ => i16)

/-- `ilhu rt,symbol`: Immediate Load Halfword Upper (R162). -/
def execIlhu (rt : Reg) (i16 : BitVec 16) (s : State) : Result :=
  s.write rt (ofWords fun _ => i16 ++ 0#16)

/-- `il rt,symbol`: Immediate Load Word (R163). -/
def execIl (rt : Reg) (i16 : BitVec 16) (s : State) : Result :=
  s.write rt (ofWords fun _ => i16.signExtend 32)

/-- `ila rt,symbol`: Immediate Load Address (R164). -/
def execIla (rt : Reg) (i18 : BitVec 18) (s : State) : Result :=
  s.write rt (ofWords fun _ => 0#14 ++ i18)

/-- `iohl rt,symbol`: Immediate Or Halfword Lower (R165). -/
def execIohl (rt : Reg) (i16 : BitVec 16) (s : State) : Result :=
  s.write rt (ofWords fun j => word (s.reg rt) j ||| (0#16 ++ i16))

/-- `fsmbi rt,symbol`: Form Select Mask for Bytes Immediate (R166). -/
def execFsmbi (rt : Reg) (i16 : BitVec 16) (s : State) : Result :=
  s.write rt (ofBytes fun j => truth 8 (i16.getLsbD (15 - j)))

end Sys2Proof.Machine
end

