-- ==== Sys2Proof/Machine/Control.lean ====
section
/-!
DEFINITION. Control and channel instructions (spec/48_control_channel.md).
-/

namespace Sys2Proof.Machine

/-- `stop`: Stop and Signal (R470). The signal type field is the spec's, from general knowledge: PRESUMED (log entry 5). -/
def execStop (sig : BitVec 14) (s : State) : Result :=
  .next (s.advance.stopWith (.signal sig))

/-- `stopd`: Stop and Signal with Dependencies (R471). RT, RA and RB are not read (log entry 6). -/
def execStopd (_rt _ra _rb : Reg) (s : State) : Result :=
  .next (s.advance.stopWith .stopd)

/-- `lnop`: No Operation (Load) (R472). -/
def execLnop (s : State) : Result :=
  .next s.advance

/-- `nop`: No Operation (Execute) (R473). RT is a false target (log entry 6). -/
def execNop (_rt : Reg) (s : State) : Result :=
  .next s.advance

/-- `sync`: Synchronize (R474). -/
def execSync (c : Bool) (s : State) : Result :=
  .next (if c then s.syncC else s.fetchSync).advance

/-- `dsync`: Synchronize Data (R475). -/
def execDsync (s : State) : Result :=
  .next s.dataSync.advance

/-- `mfspr rt,sa`: Move from Special-Purpose Register (R476). -/
def execMfspr (rt : Reg) (sa : BitVec 7) (s : State) : Result :=
  s.write rt (s.readSpr sa)

/-- `mtspr sa,rt`: Move to Special-Purpose Register (R477). -/
def execMtspr (sa : BitVec 7) (rt : Reg) (s : State) : Result :=
  .next (s.writeSpr sa (s.reg rt)).advance

/-- `rdch rt,ca`: Read Channel (R480). -/
def execRdch (rt : Reg) (ca : BitVec 7) (s : State) : Result :=
  .next (s.readChannel rt ca)

/-- `rchcnt rt,ca`: Read Channel Count (R481). -/
def execRchcnt (rt : Reg) (ca : BitVec 7) (s : State) : Result :=
  s.write rt (prefQuad (BitVec.ofNat 32 (s.channelCount ca)))

/-- `wrch ca,rt`: Write Channel (R482). -/
def execWrch (ca : BitVec 7) (rt : Reg) (s : State) : Result :=
  .next (s.writeChannel ca rt)

end Sys2Proof.Machine
end

