-- ==== Sys2Proof/Machine/SingleFloat.lean ====
section
/-!
DEFINITION. Single precision in extended range (spec/47_floating_point.md R392 to R396). Exact values are integers
over a power of two; the narrowing to 32 bits happens once, in `sround`.
-/

namespace Sys2Proof.Machine

/-- The biased exponent field (R392). -/
def sExp (w : Word) : Nat := (w.extractLsb' 23 8).toNat
/-- The fraction field (R392). -/
def sFrac (w : Word) : Nat := (w.extractLsb' 0 23).toNat

/-- `n` with the sign a sign bit says. -/
def signed (neg : Bool) (n : Nat) : Int := if neg then -(n : Int) else n

/-- `sx(w)` in units of 2^-149: zero for a zero exponent, a normalised number for every other, the maximum
exponent included (R392). -/
def sx (w : Word) : Int :=
  if sExp w = 0 then 0 else signed (w.getLsbD 31) ((2 ^ 23 + sFrac w) * 2 ^ (sExp w - 1))

/-- An operand for which the extended-range result may differ from the IEEE one: maximum exponent, or a zero
exponent with a non-zero fraction (R394, R395). -/
def sDiffInput (w : Word) : Bool := sExp w == 255 || (sExp w == 0 && sFrac w != 0)

/-- `sround(r)` for `r = n / 2^k`: saturation to Smax, flush below Smin, truncation between (R395). -/
def sround (n : Int) (k : Nat) : Word × SingleFlags :=
  let m := n.natAbs
  let sign := BitVec.ofBool (n < 0)
  if m = 0 then (0#32, ⟨false, false, false⟩)
  else if (2 ^ 24 - 1) * 2 ^ (105 + k) < m then (sign ++ 0x7FFFFFFF#31, ⟨true, false, true⟩)
  else if m * 2 ^ 126 < 2 ^ k then (0#32, ⟨false, true, true⟩)
  else
    let e := Nat.log2 m + 127 - k
    let q := m * 2 ^ 150 / 2 ^ (k + e)
    (sign ++ (BitVec.ofNat 8 e ++ BitVec.ofNat 23 (q - 2 ^ 23)), ⟨false, false, e == 255⟩)

/-- The exact value of the interpolation, as a numerator over 2^159: base, step and the fraction Y (R425). -/
def interpolate (a b : Word) : Int :=
  signed (b.getLsbD 31)
    (((2 ^ 13 + (b.extractLsb' 10 13).toNat) * 2 ^ 19 -
      (b.extractLsb' 0 10).toNat * (a.extractLsb' 0 19).toNat) * 2 ^ sExp b)

/-- The exact result of an operation, as a numerator and the exponent of its power-of-two denominator. The scale
of a conversion is the second operand. -/
def singleExact (op : SingleOp) (a b c : Word) : Int × Nat :=
  match op with
  | .add => (sx a + sx b, 149)
  | .sub => (sx a - sx b, 149)
  | .mul => (sx a * sx b, 298)
  | .madd => (sx a * sx b + sx c * 2 ^ 149, 298)
  | .msub => (sx a * sx b - sx c * 2 ^ 149, 298)
  | .nmsub => (sx c * 2 ^ 149 - sx a * sx b, 298)
  | .interp => (interpolate a b, 159)
  | .fromInt => (a.toInt, b.toNat)
  | .fromUint => ((a.toNat : Int), b.toNat)

/-- The floating-point source words of an operation, which the DIFF input test reads (R395, R425, R426). -/
def singleInputs (op : SingleOp) (a b c : Word) : List Word :=
  match op with
  | .add | .sub | .mul => [a, b]
  | .madd | .msub | .nmsub => [a, b, c]
  | .interp => [b]
  | .fromInt | .fromUint => []

/-- FP_SINGLE, the reference instance (R393, R395). -/
def singleReference (op : SingleOp) (a b c : Word) : Word × SingleFlags :=
  let r := sround (singleExact op a b c).1 (singleExact op a b c).2
  (r.1, { r.2 with diff := r.2.diff || (singleInputs op a b c).any sDiffInput })

/-- FP_SINGLE of the configuration (R391, R393). -/
def fpSingle (cfg : Config) (op : SingleOp) (a b c : Word) : Word × SingleFlags :=
  if cfg.fpSingleRef then singleReference op a b c else Config.fpSingleOther op a b c

/-- A single-precision arithmetic instruction: the four slices, and their flags (R405). -/
def State.singleArith (s : State) (op : SingleOp) (rt : Reg) (a b c : Quad) : Result :=
  s.writeFlags rt
    (ofWords fun k => (fpSingle s.cfg op (word a k) (word b k) (word c k)).1)
    (singleFlagQuad fun k => (fpSingle s.cfg op (word a k) (word b k) (word c k)).2)

/-- A conversion whose scale is outside 0 to 127: RT receives a free value, and free single-precision flags are
added for every slice (R426 to R429, spec/92_eei_decisions.md D19; log entry 19). -/
def State.convertUndefined (s : State) (rt : Reg) : Result :=
  s.takeFree.writeFlags rt (Config.freeQuad s.free) (singleFlagQuad (Config.freeFlags s.free))

/-- A conversion from integer (R426, R428). -/
def State.convertFromInt (s : State) (op : SingleOp) (rt : Reg) (a : Quad) (scale : Nat) : Result :=
  if scale ≤ 127 then s.singleArith op rt a (ofWords fun _ => BitVec.ofNat 32 scale) 0#128
  else s.convertUndefined rt

/-- The magnitude of `sx(w) * 2^scale` truncated to an integer (R427). -/
def truncated (w : Word) (scale : Nat) : Nat := (sx w).natAbs * 2 ^ scale / 2 ^ 149

/-- Conversion to a signed integer, saturating (R427). -/
def toSigned (w : Word) (scale : Nat) : Word :=
  if sx w < 0 then
    if 2 ^ 31 < truncated w scale then 0x80000000#32 else 0#32 - BitVec.ofNat 32 (truncated w scale)
  else if 2 ^ 31 - 1 < truncated w scale then 0x7FFFFFFF#32 else BitVec.ofNat 32 (truncated w scale)

/-- Conversion to an unsigned integer, saturating; zero for a negative value (R429). -/
def toUnsigned (w : Word) (scale : Nat) : Word :=
  if sx w < 0 then 0#32
  else if 2 ^ 32 - 1 < truncated w scale then 0xFFFFFFFF#32 else BitVec.ofNat 32 (truncated w scale)

/-- A conversion to integer; with a scale of 0 to 127 it sets no flag (R396, R427, R429). -/
def State.convertToInt (s : State) (f : Word → Nat → Word) (rt : Reg) (a : Quad) (scale : Nat) : Result :=
  if scale ≤ 127 then s.write rt (ofWords fun k => f (word a k) scale)
  else s.convertUndefined rt

/- The estimates. The spec states no table, but what the sequences that begin with an estimate deliver (R423, R424,
R443, R444): every table that meets this is a value of the functions below. The arithmetic of the sequences is that
of the reference instance (log entry 16). -/

/-- 1.0. -/
def singleOne : Word := 0x3F800000#32
/-- 0.5. -/
def singleHalf : Word := 0x3F000000#32
/-- INC: the single of the same sign and next larger magnitude (R443). -/
def inc (y : Word) : Word := y + 1#32

/-- What the sequence of R443 makes of the estimate `y0` of `x`: interpolation and one Newton-Raphson step. -/
def reciprocalSequence (x y0 : Word) : Word :=
  let y1 := (singleReference .interp x y0 0#32).1
  let t1 := (singleReference .nmsub x y1 singleOne).1
  (singleReference .madd t1 y1 y1).1

/-- `1/x = y`: `x * y < 1.0` and `x * INC(y) >= 1.0` (R443 (c)). -/
def isReciprocal (x y : Word) : Bool := decide (sx x * sx y < 2 ^ 298) && decide (2 ^ 298 ≤ sx x * sx (inc y))

/-- What R423 and R443 state of the estimate `y0` of `x`: the sequence delivers the largest single for a zero
exponent, 0 for a magnitude of 2^126 or more, otherwise 1/x or the single before it. -/
def reciprocalOk (x y0 : Word) : Bool :=
  let y2 := reciprocalSequence x y0
  if sExp x = 0 then y2 == 0x7FFFFFFF#32
  else if 253 ≤ sExp x then y2 == 0#32
  else isReciprocal x y2 || isReciprocal x (inc y2)

/-- An estimate that meets R423 and R443 (`reciprocalOk_example`): a step of 0, and as base the largest 13-bit
fraction below 1/x. It stands where the free table does not meet them. -/
def reciprocalExample (x : Word) : Word :=
  if sExp x = 0 then 0x7FFFFC00#32
  else if 253 ≤ sExp x then 0#32
  else BitVec.ofBool (x.getLsbD 31) ++ (BitVec.ofNat 8 (253 - sExp x) ++
    (BitVec.ofNat 13 ((2 ^ 37 - 1) / (2 ^ 23 + sFrac x) - 2 ^ 13) ++ 0#10))

/-- FREST_TABLE, constrained as R423 states: any estimate that meets `reciprocalOk`. -/
def reciprocalEstimate (x : Word) : Word :=
  if reciprocalOk x (Config.frestTable x) then Config.frestTable x else reciprocalExample x

/-- What the sequence of R444 makes of the estimate `y0` of a non-negative `x`. -/
def rootSequence (x y0 : Word) : Word :=
  let y1 := (singleReference .interp x y0 0#32).1
  let t1 := (singleReference .mul x y1 0#32).1
  let t2 := (singleReference .mul y1 singleHalf 0#32).1
  let t3 := (singleReference .nmsub t1 y1 singleOne).1
  (singleReference .madd t3 t2 y1).1

/-- `1/sqrt(x) = y`: `x * y^2 < 1.0` and `x * INC(y)^2 >= 1.0` (R444); a square root is not negative. -/
def isRoot (x y : Word) : Bool :=
  !y.getLsbD 31 && (decide (sx x * sx y ^ 2 < 2 ^ 447) && decide (2 ^ 447 ≤ sx x * sx (inc y) ^ 2))

/-- What R424 and R444 state of the estimate `y0` of a non-negative `x`: the sequence delivers at least 0x7FC00000
for a zero exponent, the largest single where the fraction is at most 0x000FF53C, otherwise 1/sqrt(x) or a neighbour
of it. -/
def rootOk (x y0 : Word) : Bool :=
  let y2 := rootSequence x y0
  if sExp x = 0 then
    if sFrac x ≤ 0x000FF53C then y2 == 0x7FFFFFFF#32 else decide (0x7FC00000#32 ≤ y2) && !y2.getLsbD 31
  else isRoot x (y2 - 1#32) || isRoot x y2 || isRoot x (inc y2)

/-- An estimate that meets R424 and R444 (`rootOk_example`): a step of 0, and as base the largest 13-bit fraction
below 1/sqrt(x). It stands where the free table does not meet them. -/
def rootExample (x : Word) : Word :=
  if sExp x = 0 then 0x7FFFFC00#32
  else 0#1 ++ (BitVec.ofNat 8 ((380 - sExp x) / 2) ++
    (BitVec.ofNat 13 (Nat.sqrt ((2 ^ (50 + sExp x % 2) - 1) / (2 ^ 23 + sFrac x)) - 2 ^ 13) ++ 0#10))

/-- FRSQEST_TABLE, constrained as R424 states: any estimate of sign 0 that meets `rootOk`; the sign of `x` is
ignored. -/
def rootEstimate (x : Word) : Word :=
  let ax := 0#1 ++ x.extractLsb' 0 31
  let y0 := 0#1 ++ Config.frsqestTable (x.extractLsb' 0 31)
  if rootOk ax y0 then y0 else rootExample ax

/-- An estimate instruction: the table's word, and DBZ for a zero exponent (R394, R396). -/
def State.estimate (s : State) (f : Word → Word) (rt : Reg) (a : Quad) : Result :=
  s.writeFlags rt (ofWords fun k => f (word a k)) (dbzQuad fun k => sExp (word a k) == 0)

end Sys2Proof.Machine
end

