-- ==== Sys2Proof/Machine/DoubleFloat.lean ====
section
/-!
DEFINITION. Double precision: IEEE 754 with the stated exceptions (spec/47_floating_point.md R397 to R404), and
the conversions between the formats (R402). The IEEE content that the source invokes without reproducing it is
the spec's, from general knowledge: PRESUMED (log entry 21).
-/

namespace Sys2Proof.Machine

/-- The biased exponent field (R397). -/
def dExp (d : Dword) : Nat := (d.extractLsb' 52 11).toNat
/-- The fraction field (R397). -/
def dFrac (d : Dword) : Nat := (d.extractLsb' 0 52).toNat
/-- The sign bit (R397). -/
def dSign (d : Dword) : Bool := d.getLsbD 63
/-- A NaN, quiet or signalling (R397). -/
def dNaN (d : Dword) : Bool := dExp d == 2047 && dFrac d != 0
/-- A signalling NaN: the top fraction bit is 0 (R397). -/
def dSNaN (d : Dword) : Bool := dNaN d && !d.getLsbD 51
/-- An infinity (R397). -/
def dInf (d : Dword) : Bool := dExp d == 2047 && dFrac d == 0
/-- A zero of either sign (R397). -/
def dZero (d : Dword) : Bool := dExp d == 0 && dFrac d == 0
/-- A denormal (R397). -/
def dDenormal (d : Dword) : Bool := dExp d == 0 && dFrac d != 0
/-- The magnitude in units of 2^-1074. An infinity comes out greater than every finite value, which is what
the comparisons need (R397, R434). -/
def dMag (d : Dword) : Nat := if dExp d = 0 then dFrac d else (2 ^ 52 + dFrac d) * 2 ^ (dExp d - 1)
/-- The value in units of 2^-1074 (R397). -/
def dValue (d : Dword) : Int := signed (dSign d) (dMag d)

/-- The default QNaN (R399). -/
def defaultNaN : Dword := 0x7FF8000000000000#64
/-- Infinity with a sign. -/
def infinity (neg : Bool) : Dword := BitVec.ofBool neg ++ 0x7FF0000000000000#63
/-- Zero with a sign. -/
def zero (neg : Bool) : Dword := BitVec.ofBool neg ++ 0#63

/-- A denormal operand becomes a zero of its sign where the configuration says so (R400). -/
def flush (cfg : Config) (d : Dword) : Dword :=
  if cfg.dpDenormInputZero && dDenormal d then zero (dSign d) else d
/-- Whether that happens, which sets DENORM (R400). -/
def flushed (cfg : Config) (d : Dword) : Bool := cfg.dpDenormInputZero && dDenormal d

/-- A binary format: fraction bits, the exponent of the smallest denormal negated, the all-ones exponent. -/
structure Format where
  frac : Nat
  least : Nat
  expMax : Nat

/-- IEEE double (R398). -/
def doubleFormat : Format := ⟨52, 1074, 2047⟩
/-- IEEE single, the format of `frds` (R402). -/
def singleFormat : Format := ⟨23, 149, 255⟩

/-- `num / den` rounded to an integer by mode: nearest even, toward zero, up, down (R401). -/
def roundQuot (mode : BitVec 2) (neg : Bool) (num den : Nat) : Nat :=
  let q := num / den
  let r := num % den
  let up : Bool :=
    if mode = 0b00#2 then decide (den < 2 * r) || (decide (2 * r = den) && q % 2 == 1)
    else if mode = 0b01#2 then false
    else if mode = 0b10#2 then r != 0 && !neg
    else r != 0 && neg
  if up then q + 1 else q

/-- Whether an overflow delivers infinity rather than the largest finite value (R404). -/
def overflowsToInfinity (mode : BitVec 2) (neg : Bool) : Bool :=
  if mode = 0b00#2 then true
  else if mode = 0b01#2 then false
  else if mode = 0b10#2 then !neg
  else neg

/-- `dround(mode, r)` for `|r| = m / 2^k`, not zero: exponent and fraction of the result as one number, OVF, UNF
and INX (R403, R404). -/
def roundTo (fmt : Format) (mode : BitVec 2) (neg : Bool) (m k : Nat) : Nat × DoubleFlags :=
  let u := Nat.log2 m + fmt.least - (k + fmt.frac)
  let num := m * 2 ^ fmt.least
  let den := 2 ^ (k + u)
  let code := u * 2 ^ fmt.frac + roundQuot mode neg num den
  let inexact := num % den != 0
  let tiny := decide (m * 2 ^ (fmt.least - fmt.frac) < 2 ^ k)
  if fmt.expMax * 2 ^ fmt.frac ≤ code then
    (if overflowsToInfinity mode neg then fmt.expMax * 2 ^ fmt.frac else fmt.expMax * 2 ^ fmt.frac - 1,
     ⟨true, false, true, false, false, false⟩)
  else (code, ⟨false, tiny && inexact, inexact, false, false, false⟩)

/-- The double nearest by mode to `n / 2^k`; an exact zero gets the sign `zeroNeg` (R404). -/
def dround (mode : BitVec 2) (zeroNeg : Bool) (n : Int) (k : Nat) : Dword × DoubleFlags :=
  if n = 0 then (zero zeroNeg, DoubleFlags.none)
  else
    let r := roundTo doubleFormat mode (n < 0) n.natAbs k
    (BitVec.ofBool (n < 0) ++ BitVec.ofNat 63 r.1, r.2)

/-- The floating-point operands of an operation. -/
def doubleInputs (op : DoubleOp) (a b c : Dword) : List Dword :=
  match op with
  | .add | .sub | .mul => [a, b]
  | .madd | .msub => [a, b, c]

/-- The NaN `x` made quiet: `x` itself if it is a quiet one, otherwise any quiet NaN, which `q` gives (R399). That
a quiet one stays as it is: DEDUCED (log entry 18). -/
def quietNaN (q x : Dword) : Dword := if dSNaN x then q ||| 0x7FF8000000000000#64 else x

/-- The result of an operation with a NaN among its inputs: the default QNaN with the NaN flag, or one of the
input NaNs, chosen and made quiet by free functions of the implementation (R399; log entry 18). -/
def nanResult (cfg : Config) (op : DoubleOp) (a b c : Dword) : Dword × DoubleFlags :=
  let inputs := doubleInputs op a b c
  let inv := inputs.any dSNaN
  if cfg.dpNanDefault then (defaultNaN, ⟨false, false, false, inv, true, false⟩)
  else
    let nans := inputs.filter dNaN
    (quietNaN (Config.dpNanQuieted op a b c) (nans.getD (Config.dpNanChoice op a b c % nans.length) defaultNaN),
     ⟨false, false, false, inv, false, false⟩)

/-- The result of an invalid operation: INV and the default QNaN (R404). -/
def invalidResult : Dword × DoubleFlags := (defaultNaN, ⟨false, false, false, true, false, false⟩)

/-- The sign of an exact zero sum of terms of signs `x` and `y` (R404). -/
def zeroSumSign (mode : BitVec 2) (x y : Bool) : Bool := if x = y then x else mode == 0b11#2

/-- `a + b` of operands that are no NaN (R404). -/
def dAdd (mode : BitVec 2) (a b : Dword) : Dword × DoubleFlags :=
  if dInf a && dInf b && dSign a != dSign b then invalidResult
  else if dInf a then (infinity (dSign a), DoubleFlags.none)
  else if dInf b then (infinity (dSign b), DoubleFlags.none)
  else dround mode (zeroSumSign mode (dSign a) (dSign b)) (dValue a + dValue b) 1074

/-- `a * b` of operands that are no NaN (R404). -/
def dMul (mode : BitVec 2) (a b : Dword) : Dword × DoubleFlags :=
  let neg := dSign a != dSign b
  if (dInf a && dZero b) || (dZero a && dInf b) then invalidResult
  else if dInf a || dInf b then (infinity neg, DoubleFlags.none)
  else dround mode neg (dValue a * dValue b) 2148

/-- `a * b + c` of operands that are no NaN: the product exact and unbounded, one rounding (R404). -/
def dMadd (mode : BitVec 2) (a b c : Dword) : Dword × DoubleFlags :=
  let neg := dSign a != dSign b
  if (dInf a && dZero b) || (dZero a && dInf b) then invalidResult
  else if dInf a || dInf b then
    if dInf c && dSign c != neg then invalidResult else (infinity neg, DoubleFlags.none)
  else if dInf c then (infinity (dSign c), DoubleFlags.none)
  else dround mode (zeroSumSign mode neg (dSign c))
    (dValue a * dValue b + dValue c * 2 ^ 1074) 2148

/-- The value with its sign inverted. -/
def dNeg (d : Dword) : Dword := d ^^^ 0x8000000000000000#64

/-- `dresult(op, operands)` before the DENORM flag (R404). A NaN operand is looked for first: of an infinity times
zero plus a quiet NaN R404 makes the NaN result without INV, while R417 says that an infinity times zero plus
anything is invalid. DESIGN CHOICE (log entry 41): R404's order is followed. -/
def dresult (cfg : Config) (op : DoubleOp) (mode : BitVec 2) (a b c : Dword) : Dword × DoubleFlags :=
  if (doubleInputs op a b c).any dNaN then nanResult cfg op a b c
  else
    match op with
    | .add => dAdd mode a b
    | .sub => dAdd mode a (dNeg b)
    | .mul => dMul mode a b
    | .madd => dMadd mode a b c
    | .msub => dMadd mode a b (dNeg c)

/-- FP_DOUBLE, the reference instance: denormal operands first, then the result (R400, R404). -/
def doubleReference (cfg : Config) (op : DoubleOp) (mode : BitVec 2) (a b c : Dword) : Dword × DoubleFlags :=
  let r := dresult cfg op mode (flush cfg a) (flush cfg b) (flush cfg c)
  (r.1, { r.2 with denorm := (doubleInputs op a b c).any (flushed cfg) })

/-- FP_DOUBLE of the configuration (R391, R393). -/
def fpDouble (cfg : Config) (op : DoubleOp) (mode : BitVec 2) (a b c : Dword) : Dword × DoubleFlags :=
  if cfg.fpDoubleRef then doubleReference cfg op mode a b c else Config.fpDoubleOther op mode a b c

/-- The negated result: the sign inverted, but a NaN has sign bit 0 (R419, R422). -/
def negateResult (d : Dword) : Dword := if dNaN d then d &&& 0x7FFFFFFFFFFFFFFF#64 else dNeg d

/-- A double-precision arithmetic instruction: slice k rounds by RNk (R401, R405); `post` is what the negating
forms do to the rounded result. -/
def State.doubleArith (s : State) (op : DoubleOp) (post : Dword → Dword) (rt : Reg) (a b c : Quad) : Result :=
  s.writeFlags rt
    (ofDwords fun k =>
      post (fpDouble s.cfg op (roundMode s.fpscr k) (dword a k) (dword b k) (dword c k)).1)
    (doubleFlagQuad fun k =>
      (fpDouble s.cfg op (roundMode s.fpscr k) (dword a k) (dword b k) (dword c k)).2)

/-- `frds` of one slice (R430). -/
def roundToSingle (cfg : Config) (mode : BitVec 2) (d : Dword) : Word × DoubleFlags :=
  let x := flush cfg d
  if dNaN x then
    if cfg.dpNanDefault then (0x7FC00000#32, ⟨false, false, false, dSNaN x, true, false⟩)
    else (Config.nanToSingle x ||| 0x7FC00000#32, ⟨false, false, false, dSNaN x, false, false⟩)
  else if dInf x then (BitVec.ofBool (dSign x) ++ 0x7F800000#31, DoubleFlags.none)
  else if dMag x = 0 then (BitVec.ofBool (dSign x) ++ 0#31, { DoubleFlags.none with denorm := flushed cfg d })
  else
    let r := roundTo singleFormat mode (dSign x) (dMag x) 1074
    (BitVec.ofBool (dSign x) ++ BitVec.ofNat 31 r.1, r.2)

/-- A NaN of IEEE single (R402). -/
def sNaN (w : Word) : Bool := sExp w == 255 && sFrac w != 0
/-- A denormal of IEEE single (R402). -/
def sDenormal (w : Word) : Bool := sExp w == 0 && sFrac w != 0
/-- The magnitude `|ix(w)|` of an IEEE single in units of 2^-149 (R402). -/
def ixMag (w : Word) : Nat := if sExp w = 0 then sFrac w else (2 ^ 23 + sFrac w) * 2 ^ (sExp w - 1)

/-- `fesd` of one slice: always exact (R431). -/
def extendToDouble (cfg : Config) (w : Word) : Dword × DoubleFlags :=
  let denorm := cfg.dpDenormInputZero && sDenormal w
  let neg := w.getLsbD 31
  if sNaN w then
    let inv := !w.getLsbD 22
    if cfg.dpNanDefault then (defaultNaN, ⟨false, false, false, inv, true, false⟩)
    else (Config.nanToDouble w ||| 0x7FF8000000000000#64, ⟨false, false, false, inv, false, false⟩)
  else if sExp w = 255 then (infinity neg, DoubleFlags.none)
  else if denorm || ixMag w == 0 then (zero neg, { DoubleFlags.none with denorm := denorm })
  else dround 0b01#2 neg (signed neg (ixMag w)) 149

/-- A double compare: false and INV when an operand is a NaN, otherwise by value (R432 to R435). -/
def State.doubleCompare (s : State) (cmp : Dword → Dword → Bool) (rt : Reg) (a b : Quad) : Result :=
  s.writeFlags rt
    (ofDwords fun k =>
      truth 64 (!(dNaN (dword a k) || dNaN (dword b k)) && cmp (dword a k) (dword b k)))
    (doubleFlagQuad fun k => { DoubleFlags.none with inv := dNaN (dword a k) || dNaN (dword b k) })

/-- The seven tests of `dftsv`, each selected by a bit of I7 (R436). -/
def specialValue (i7 : BitVec 7) (d : Dword) : Bool :=
  (i7.getLsbD 6 && dNaN d) || (i7.getLsbD 5 && dInf d && !dSign d) || (i7.getLsbD 4 && dInf d && dSign d) ||
  (i7.getLsbD 3 && dZero d && !dSign d) || (i7.getLsbD 2 && dZero d && dSign d) ||
  (i7.getLsbD 1 && dDenormal d && !dSign d) || (i7.getLsbD 0 && dDenormal d && dSign d)

/-- One of the five optional instructions: an unassigned opcode where the configuration lacks them
(spec/30_encoding.md R107). -/
def State.ifDpCompare (s : State) (i : Instr) (r : Result) : Result :=
  if s.cfg.hasDpCompare then r else .fault (.illegalInstruction s.pc (encode i))

end Sys2Proof.Machine
end

