-- ==== Sys2Proof/Machine/FloatingPoint.lean ====
section
/-!
DEFINITION. Floating-point instructions (spec/47_floating_point.md).
-/

namespace Sys2Proof.Machine

/-- `fa rt,ra,rb`: Floating Add (R410). The page is missing in the source; the spec reconstructs it (D33): DEDUCED (log entry 20). -/
def execFa (rt ra rb : Reg) (s : State) : Result :=
  s.singleArith .add rt (s.reg ra) (s.reg rb) 0#128

/-- `dfa rt,ra,rb`: Double Floating Add (R411). -/
def execDfa (rt ra rb : Reg) (s : State) : Result :=
  s.doubleArith .add id rt (s.reg ra) (s.reg rb) 0#128

/-- `fs rt,ra,rb`: Floating Subtract (R412). -/
def execFs (rt ra rb : Reg) (s : State) : Result :=
  s.singleArith .sub rt (s.reg ra) (s.reg rb) 0#128

/-- `dfs rt,ra,rb`: Double Floating Subtract (R413). -/
def execDfs (rt ra rb : Reg) (s : State) : Result :=
  s.doubleArith .sub id rt (s.reg ra) (s.reg rb) 0#128

/-- `fm rt,ra,rb`: Floating Multiply (R414). -/
def execFm (rt ra rb : Reg) (s : State) : Result :=
  s.singleArith .mul rt (s.reg ra) (s.reg rb) 0#128

/-- `dfm rt,ra,rb`: Double Floating Multiply (R415). -/
def execDfm (rt ra rb : Reg) (s : State) : Result :=
  s.doubleArith .mul id rt (s.reg ra) (s.reg rb) 0#128

/-- `fma rt,ra,rb,rc`: Floating Multiply and Add (R416). -/
def execFma (rt ra rb rc : Reg) (s : State) : Result :=
  s.singleArith .madd rt (s.reg ra) (s.reg rb) (s.reg rc)

/-- `dfma rt,ra,rb`: Double Floating Multiply and Add (R417). -/
def execDfma (rt ra rb : Reg) (s : State) : Result :=
  s.doubleArith .madd id rt (s.reg ra) (s.reg rb) (s.reg rt)

/-- `fnms rt,ra,rb,rc`: Floating Negative Multiply and Subtract (R418). -/
def execFnms (rt ra rb rc : Reg) (s : State) : Result :=
  s.singleArith .nmsub rt (s.reg ra) (s.reg rb) (s.reg rc)

/-- `dfnms rt,ra,rb`: Double Floating Negative Multiply and Subtract (R419). -/
def execDfnms (rt ra rb : Reg) (s : State) : Result :=
  s.doubleArith .msub negateResult rt (s.reg ra) (s.reg rb) (s.reg rt)

/-- `fms rt,ra,rb,rc`: Floating Multiply and Subtract (R420). -/
def execFms (rt ra rb rc : Reg) (s : State) : Result :=
  s.singleArith .msub rt (s.reg ra) (s.reg rb) (s.reg rc)

/-- `dfms rt,ra,rb`: Double Floating Multiply and Subtract (R421). -/
def execDfms (rt ra rb : Reg) (s : State) : Result :=
  s.doubleArith .msub id rt (s.reg ra) (s.reg rb) (s.reg rt)

/-- `dfnma rt,ra,rb`: Double Floating Negative Multiply and Add (R422). -/
def execDfnma (rt ra rb : Reg) (s : State) : Result :=
  s.doubleArith .madd negateResult rt (s.reg ra) (s.reg rb) (s.reg rt)

/-- `frest rt,ra`: Floating Reciprocal Estimate (R423). The table is open within its constraints
(log entry 16). -/
def execFrest (rt ra : Reg) (s : State) : Result :=
  s.estimate reciprocalEstimate rt (s.reg ra)

/-- `frsqest rt,ra`: Floating Reciprocal Absolute Square Root Estimate (R424). The table is open within its
constraints (log entry 16). -/
def execFrsqest (rt ra : Reg) (s : State) : Result :=
  s.estimate rootEstimate rt (s.reg ra)

/-- `fi rt,ra,rb`: Floating Interpolate (R425). Delivery through `sround` and RB as the only floating-point input are the reading D34: DEDUCED (log entry 20). -/
def execFi (rt ra rb : Reg) (s : State) : Result :=
  s.singleArith .interp rt (s.reg ra) (s.reg rb) 0#128

/-- `csflt rt,ra,scale`: Convert Signed Integer to Floating (R426). -/
def execCsflt (rt ra : Reg) (i8 : BitVec 8) (s : State) : Result :=
  s.convertFromInt .fromInt rt (s.reg ra) (scaleFromInt i8)

/-- `cflts rt,ra,scale`: Convert Floating to Signed Integer (R427). -/
def execCflts (rt ra : Reg) (i8 : BitVec 8) (s : State) : Result :=
  s.convertToInt toSigned rt (s.reg ra) (scaleToInt i8)

/-- `cuflt rt,ra,scale`: Convert Unsigned Integer to Floating (R428). -/
def execCuflt (rt ra : Reg) (i8 : BitVec 8) (s : State) : Result :=
  s.convertFromInt .fromUint rt (s.reg ra) (scaleFromInt i8)

/-- `cfltu rt,ra,scale`: Convert Floating to Unsigned Integer (R429). -/
def execCfltu (rt ra : Reg) (i8 : BitVec 8) (s : State) : Result :=
  s.convertToInt toUnsigned rt (s.reg ra) (scaleToInt i8)

/-- `frds rt,ra`: Floating Round Double to Single (R430). -/
def execFrds (rt ra : Reg) (s : State) : Result :=
  s.writeFlags rt
    (ofDwords fun k => (roundToSingle s.cfg (roundMode s.fpscr k) (dword (s.reg ra) k)).1 ++ 0#32)
    (doubleFlagQuad fun k => (roundToSingle s.cfg (roundMode s.fpscr k) (dword (s.reg ra) k)).2)

/-- `fesd rt,ra`: Floating Extend Single to Double (R431). -/
def execFesd (rt ra : Reg) (s : State) : Result :=
  s.writeFlags rt
    (ofDwords fun k => (extendToDouble s.cfg (word (s.reg ra) (2 * k))).1)
    (doubleFlagQuad fun k => (extendToDouble s.cfg (word (s.reg ra) (2 * k))).2)

/-- `dfceq rt,ra,rb`: Double Floating Compare Equal (R432). -/
def execDfceq (rt ra rb : Reg) (s : State) : Result :=
  s.ifDpCompare (.dfceq rt ra rb)
    (s.doubleCompare (fun x y => dValue x == dValue y) rt (s.reg ra) (s.reg rb))

/-- `dfcmeq rt,ra,rb`: Double Floating Compare Magnitude Equal (R433). -/
def execDfcmeq (rt ra rb : Reg) (s : State) : Result :=
  s.ifDpCompare (.dfcmeq rt ra rb)
    (s.doubleCompare (fun x y => dMag x == dMag y) rt (s.reg ra) (s.reg rb))

/-- `dfcgt rt,ra,rb`: Double Floating Compare Greater Than (R434). -/
def execDfcgt (rt ra rb : Reg) (s : State) : Result :=
  s.ifDpCompare (.dfcgt rt ra rb)
    (s.doubleCompare (fun x y => dValue y < dValue x) rt (s.reg ra) (s.reg rb))

/-- `dfcmgt rt,ra,rb`: Double Floating Compare Magnitude Greater Than (R435). -/
def execDfcmgt (rt ra rb : Reg) (s : State) : Result :=
  s.ifDpCompare (.dfcmgt rt ra rb)
    (s.doubleCompare (fun x y => dMag y < dMag x) rt (s.reg ra) (s.reg rb))

/-- `dftsv rt,ra,value`: Double Floating Test Special Value (R436). -/
def execDftsv (rt ra : Reg) (i7 : BitVec 7) (s : State) : Result :=
  s.ifDpCompare (.dftsv rt ra i7)
    (s.write rt (ofDwords fun k => truth 64 (specialValue i7 (dword (s.reg ra) k))))

/-- `fceq rt,ra,rb`: Floating Compare Equal (R437). -/
def execFceq (rt ra rb : Reg) (s : State) : Result :=
  s.write rt (ofWords fun j => truth 32 (sx (word (s.reg ra) j) == sx (word (s.reg rb) j)))

/-- `fcmeq rt,ra,rb`: Floating Compare Magnitude Equal (R438). -/
def execFcmeq (rt ra rb : Reg) (s : State) : Result :=
  s.write rt (ofWords fun j => truth 32 ((sx (word (s.reg ra) j)).natAbs == (sx (word (s.reg rb) j)).natAbs))

/-- `fcgt rt,ra,rb`: Floating Compare Greater Than (R439). -/
def execFcgt (rt ra rb : Reg) (s : State) : Result :=
  s.write rt (ofWords fun j => truth 32 (sx (word (s.reg rb) j) < sx (word (s.reg ra) j)))

/-- `fcmgt rt,ra,rb`: Floating Compare Magnitude Greater Than (R440). -/
def execFcmgt (rt ra rb : Reg) (s : State) : Result :=
  s.write rt (ofWords fun j => truth 32 ((sx (word (s.reg rb) j)).natAbs < (sx (word (s.reg ra) j)).natAbs))

/-- `fscrwr ra`: Floating-Point Status and Control Register Write (R441). Unused bits are not stored: the decision D27, DESIGN CHOICE (log entry 23). RT is a false target. -/
def execFscrwr (ra _rt : Reg) (s : State) : Result :=
  .next { s with fpscr := s.reg ra &&& fpscrMask }.advance

/-- `fscrrd rt`: Floating-Point Status and Control Register Read (R442). -/
def execFscrrd (rt : Reg) (s : State) : Result :=
  s.write rt (s.fpscr &&& fpscrMask)

end Sys2Proof.Machine
end

