-- ==== Sys2Proof/Machine/Integer.lean ====
section
/-!
DEFINITION. Integer instructions (spec/42_integer.md): slots are independent, results wrap.
-/

namespace Sys2Proof.Machine

/-- Bit 0 of each byte of a register, byte 0 leftmost, in the low 16 bits (R201). -/
def gatherBytes (q : Quad) : Word :=
  (List.range 16).foldl (fun w k => (w <<< 1) ||| bitWord ((byte q k).getLsbD 0)) 0#32

/-- Bit 0 of each halfword, halfword 0 leftmost, in the low 8 bits (R202). -/
def gatherHalfs (q : Quad) : Word :=
  (List.range 8).foldl (fun w k => (w <<< 1) ||| bitWord ((hw q k).getLsbD 0)) 0#32

/-- Bit 0 of each word, word 0 leftmost, in the low 4 bits (R203). -/
def gatherWords (q : Quad) : Word :=
  (List.range 4).foldl (fun w k => (w <<< 1) ||| bitWord ((word q k).getLsbD 0)) 0#32

/-- The sum of the four bytes of word j, as 16 bits (R206). -/
def sumOfBytes (q : Quad) (j : Nat) : Half :=
  (byte q (4 * j)).zeroExtend 16 + (byte q (4 * j + 1)).zeroExtend 16 +
    (byte q (4 * j + 2)).zeroExtend 16 + (byte q (4 * j + 3)).zeroExtend 16

/-- `ah rt,ra,rb`: Add Halfword (R171). -/
def execAh (rt ra rb : Reg) (s : State) : Result :=
  s.write rt (ofHalfs fun j => hw (s.reg ra) j + hw (s.reg rb) j)

/-- `ahi rt,ra,value`: Add Halfword Immediate (R172). -/
def execAhi (rt ra : Reg) (i10 : BitVec 10) (s : State) : Result :=
  s.write rt (ofHalfs fun j => hw (s.reg ra) j + imm16 i10)

/-- `a rt,ra,rb`: Add Word (R173). -/
def execA (rt ra rb : Reg) (s : State) : Result :=
  s.write rt (ofWords fun j => word (s.reg ra) j + word (s.reg rb) j)

/-- `ai rt,ra,value`: Add Word Immediate (R174). -/
def execAi (rt ra : Reg) (i10 : BitVec 10) (s : State) : Result :=
  s.write rt (ofWords fun j => word (s.reg ra) j + imm32 i10)

/-- `sfh rt,ra,rb`: Subtract From Halfword (R175). -/
def execSfh (rt ra rb : Reg) (s : State) : Result :=
  s.write rt (ofHalfs fun j => hw (s.reg rb) j + ~~~hw (s.reg ra) j + 1#16)

/-- `sfhi rt,ra,value`: Subtract From Halfword Immediate (R176). -/
def execSfhi (rt ra : Reg) (i10 : BitVec 10) (s : State) : Result :=
  s.write rt (ofHalfs fun j => imm16 i10 + ~~~hw (s.reg ra) j + 1#16)

/-- `sf rt,ra,rb`: Subtract From Word (R177). -/
def execSf (rt ra rb : Reg) (s : State) : Result :=
  s.write rt (ofWords fun j => word (s.reg rb) j + ~~~word (s.reg ra) j + 1#32)

/-- `sfi rt,ra,value`: Subtract From Word Immediate (R178). -/
def execSfi (rt ra : Reg) (i10 : BitVec 10) (s : State) : Result :=
  s.write rt (ofWords fun j => imm32 i10 + ~~~word (s.reg ra) j + 1#32)

/-- `addx rt,ra,rb`: Add Extended (R179). The reserved bits of the RT input are ignored: the decision D28 of the spec, DESIGN CHOICE (log entry 24). -/
def execAddx (rt ra rb : Reg) (s : State) : Result :=
  s.write rt (ofWords fun j => word (s.reg ra) j + word (s.reg rb) j + bitWord ((word (s.reg rt) j).getLsbD 0))

/-- `cg rt,ra,rb`: Carry Generate (R180). -/
def execCg (rt ra rb : Reg) (s : State) : Result :=
  s.write rt (ofWords fun j => bitWord (carryOut (word (s.reg ra) j) (word (s.reg rb) j) false))

/-- `cgx rt,ra,rb`: Carry Generate Extended (R181). -/
def execCgx (rt ra rb : Reg) (s : State) : Result :=
  s.write rt (ofWords fun j => bitWord (carryOut (word (s.reg ra) j) (word (s.reg rb) j) ((word (s.reg rt) j).getLsbD 0)))

/-- `sfx rt,ra,rb`: Subtract From Extended (R182). -/
def execSfx (rt ra rb : Reg) (s : State) : Result :=
  s.write rt (ofWords fun j => word (s.reg rb) j + ~~~word (s.reg ra) j + bitWord ((word (s.reg rt) j).getLsbD 0))

/-- `bg rt,ra,rb`: Borrow Generate (R183). -/
def execBg (rt ra rb : Reg) (s : State) : Result :=
  s.write rt (ofWords fun j => bitWord (noBorrow (word (s.reg ra) j) (word (s.reg rb) j) true))

/-- `bgx rt,ra,rb`: Borrow Generate Extended (R184). -/
def execBgx (rt ra rb : Reg) (s : State) : Result :=
  s.write rt (ofWords fun j => bitWord (noBorrow (word (s.reg ra) j) (word (s.reg rb) j) ((word (s.reg rt) j).getLsbD 0)))

/-- `mpy rt,ra,rb`: Multiply (R185). -/
def execMpy (rt ra rb : Reg) (s : State) : Result :=
  s.write rt (ofWords fun j => (hw (s.reg ra) (2 * j + 1)).signExtend 32 * (hw (s.reg rb) (2 * j + 1)).signExtend 32)

/-- `mpyu rt,ra,rb`: Multiply Unsigned (R186). -/
def execMpyu (rt ra rb : Reg) (s : State) : Result :=
  s.write rt (ofWords fun j => (hw (s.reg ra) (2 * j + 1)).zeroExtend 32 * (hw (s.reg rb) (2 * j + 1)).zeroExtend 32)

/-- `mpyi rt,ra,value`: Multiply Immediate (R187). -/
def execMpyi (rt ra : Reg) (i10 : BitVec 10) (s : State) : Result :=
  s.write rt (ofWords fun j => (hw (s.reg ra) (2 * j + 1)).signExtend 32 * (imm16 i10).signExtend 32)

/-- `mpyui rt,ra,value`: Multiply Unsigned Immediate (R188). The immediate is sign-extended, then read as unsigned. -/
def execMpyui (rt ra : Reg) (i10 : BitVec 10) (s : State) : Result :=
  s.write rt (ofWords fun j => (hw (s.reg ra) (2 * j + 1)).zeroExtend 32 * (imm16 i10).zeroExtend 32)

/-- `mpya rt,ra,rb,rc`: Multiply and Add (R189). -/
def execMpya (rt ra rb rc : Reg) (s : State) : Result :=
  s.write rt (ofWords fun j => (hw (s.reg ra) (2 * j + 1)).signExtend 32 * (hw (s.reg rb) (2 * j + 1)).signExtend 32 + word (s.reg rc) j)

/-- `mpyh rt,ra,rb`: Multiply High (R190). -/
def execMpyh (rt ra rb : Reg) (s : State) : Result :=
  s.write rt (ofWords fun j => ((hw (s.reg ra) (2 * j)).signExtend 32 * (hw (s.reg rb) (2 * j + 1)).signExtend 32).extractLsb' 0 16 ++ 0#16)

/-- `mpys rt,ra,rb`: Multiply and Shift Right (R191). -/
def execMpys (rt ra rb : Reg) (s : State) : Result :=
  s.write rt (ofWords fun j => (((hw (s.reg ra) (2 * j + 1)).signExtend 32 * (hw (s.reg rb) (2 * j + 1)).signExtend 32).extractLsb' 16 16).signExtend 32)

/-- `mpyhh rt,ra,rb`: Multiply High High (R192). -/
def execMpyhh (rt ra rb : Reg) (s : State) : Result :=
  s.write rt (ofWords fun j => (hw (s.reg ra) (2 * j)).signExtend 32 * (hw (s.reg rb) (2 * j)).signExtend 32)

/-- `mpyhha rt,ra,rb`: Multiply High High and Add (R193). -/
def execMpyhha (rt ra rb : Reg) (s : State) : Result :=
  s.write rt (ofWords fun j => (hw (s.reg ra) (2 * j)).signExtend 32 * (hw (s.reg rb) (2 * j)).signExtend 32 + word (s.reg rt) j)

/-- `mpyhhu rt,ra,rb`: Multiply High High Unsigned (R194). -/
def execMpyhhu (rt ra rb : Reg) (s : State) : Result :=
  s.write rt (ofWords fun j => (hw (s.reg ra) (2 * j)).zeroExtend 32 * (hw (s.reg rb) (2 * j)).zeroExtend 32)

/-- `mpyhhau rt,ra,rb`: Multiply High High Unsigned and Add (R195). -/
def execMpyhhau (rt ra rb : Reg) (s : State) : Result :=
  s.write rt (ofWords fun j => (hw (s.reg ra) (2 * j)).zeroExtend 32 * (hw (s.reg rb) (2 * j)).zeroExtend 32 + word (s.reg rt) j)

/-- `clz rt,ra`: Count Leading Zeros (R196). -/
def execClz (rt ra : Reg) (s : State) : Result :=
  s.write rt (ofWords fun j => BitVec.ofNat 32 (leadingZeros (word (s.reg ra) j) 32))

/-- `cntb rt,ra`: Count Ones in Bytes (R197). -/
def execCntb (rt ra : Reg) (s : State) : Result :=
  s.write rt (ofBytes fun j => BitVec.ofNat 8 (popcount (byte (s.reg ra) j) 8))

/-- `fsmb rt,ra`: Form Select Mask for Bytes (R198). -/
def execFsmb (rt ra : Reg) (s : State) : Result :=
  s.write rt (ofBytes fun j => truth 8 ((hw (s.reg ra) 1).getLsbD (15 - j)))

/-- `fsmh rt,ra`: Form Select Mask for Halfwords (R199). -/
def execFsmh (rt ra : Reg) (s : State) : Result :=
  s.write rt (ofHalfs fun j => truth 16 ((byte (s.reg ra) 3).getLsbD (7 - j)))

/-- `fsm rt,ra`: Form Select Mask for Words (R200). -/
def execFsm (rt ra : Reg) (s : State) : Result :=
  s.write rt (ofWords fun j => truth 32 ((pref (s.reg ra)).getLsbD (3 - j)))

/-- `gbb rt,ra`: Gather Bits from Bytes (R201). -/
def execGbb (rt ra : Reg) (s : State) : Result :=
  s.write rt (prefQuad (gatherBytes (s.reg ra)))

/-- `gbh rt,ra`: Gather Bits from Halfwords (R202). -/
def execGbh (rt ra : Reg) (s : State) : Result :=
  s.write rt (prefQuad (gatherHalfs (s.reg ra)))

/-- `gb rt,ra`: Gather Bits from Words (R203). -/
def execGb (rt ra : Reg) (s : State) : Result :=
  s.write rt (prefQuad (gatherWords (s.reg ra)))

/-- `avgb rt,ra,rb`: Average Bytes (R204). -/
def execAvgb (rt ra rb : Reg) (s : State) : Result :=
  s.write rt (ofBytes fun j => ((byte (s.reg ra) j).zeroExtend 16 + (byte (s.reg rb) j).zeroExtend 16 + 1#16).extractLsb' 1 8)

/-- `absdb rt,ra,rb`: Absolute Differences of Bytes (R205). -/
def execAbsdb (rt ra rb : Reg) (s : State) : Result :=
  s.write rt (ofBytes fun j => if byte (s.reg ra) j < byte (s.reg rb) j then byte (s.reg rb) j - byte (s.reg ra) j else byte (s.reg ra) j - byte (s.reg rb) j)

/-- `sumb rt,ra,rb`: Sum Bytes into Halfwords (R206). -/
def execSumb (rt ra rb : Reg) (s : State) : Result :=
  s.write rt (ofWords fun j => sumOfBytes (s.reg rb) j ++ sumOfBytes (s.reg ra) j)

/-- `xsbh rt,ra`: Extend Sign Byte to Halfword (R207). -/
def execXsbh (rt ra : Reg) (s : State) : Result :=
  s.write rt (ofHalfs fun j => (byte (s.reg ra) (2 * j + 1)).signExtend 16)

/-- `xshw rt,ra`: Extend Sign Halfword to Word (R208). -/
def execXshw (rt ra : Reg) (s : State) : Result :=
  s.write rt (ofWords fun j => (hw (s.reg ra) (2 * j + 1)).signExtend 32)

/-- `xswd rt,ra`: Extend Sign Word to Doubleword (R209). -/
def execXswd (rt ra : Reg) (s : State) : Result :=
  s.write rt (ofDwords fun j => (word (s.reg ra) (2 * j + 1)).signExtend 64)

end Sys2Proof.Machine
end

