-- ==== Sys2Proof/Machine/LoadStore.lean ====
section
/-!
DEFINITION. Loads, stores and the generate controls (spec/40_load_store.md).
-/

namespace Sys2Proof.Machine

/-- `lqd rt,symbol(ra)`: Load Quadword (d-form) (R131). -/
def execLqd (rt ra : Reg) (i10 : BitVec 10) (s : State) : Result :=
  s.loadTo rt (eaD i10 (s.reg ra))

/-- `lqx rt,ra,rb`: Load Quadword (x-form) (R132). -/
def execLqx (rt ra rb : Reg) (s : State) : Result :=
  s.loadTo rt (eaX (s.reg ra) (s.reg rb))

/-- `lqa rt,symbol`: Load Quadword (a-form) (R133). -/
def execLqa (rt : Reg) (i16 : BitVec 16) (s : State) : Result :=
  s.loadTo rt (eaA i16)

/-- `lqr rt,symbol`: Load Quadword Instruction Relative (a-form) (R134). The offset is signed: DEDUCED (log entry 39). -/
def execLqr (rt : Reg) (i16 : BitVec 16) (s : State) : Result :=
  s.loadTo rt (eaR i16 s.pc)

/-- `stqd rt,symbol(ra)`: Store Quadword (d-form) (R135). -/
def execStqd (rt ra : Reg) (i10 : BitVec 10) (s : State) : Result :=
  s.storeFrom rt (eaD i10 (s.reg ra))

/-- `stqx rt,ra,rb`: Store Quadword (x-form) (R136). -/
def execStqx (rt ra rb : Reg) (s : State) : Result :=
  s.storeFrom rt (eaX (s.reg ra) (s.reg rb))

/-- `stqa rt,symbol`: Store Quadword (a-form) (R137). -/
def execStqa (rt : Reg) (i16 : BitVec 16) (s : State) : Result :=
  s.storeFrom rt (eaA i16)

/-- `stqr rt,symbol`: Store Quadword Instruction Relative (a-form) (R138). -/
def execStqr (rt : Reg) (i16 : BitVec 16) (s : State) : Result :=
  s.storeFrom rt (eaR i16 s.pc)

/-- `cbd rt,symbol(ra)`: Generate Controls for Byte Insertion (d-form) (R140). -/
def execCbd (rt ra : Reg) (i7 : BitVec 7) (s : State) : Result :=
  s.write rt (byteMask (controlD i7 (s.reg ra)))

/-- `cbx rt,ra,rb`: Generate Controls for Byte Insertion (x-form) (R141). -/
def execCbx (rt ra rb : Reg) (s : State) : Result :=
  s.write rt (byteMask (eaX (s.reg ra) (s.reg rb)))

/-- `chd rt,symbol(ra)`: Generate Controls for Halfword Insertion (d-form) (R142). -/
def execChd (rt ra : Reg) (i7 : BitVec 7) (s : State) : Result :=
  s.write rt (halfMask (controlD i7 (s.reg ra)))

/-- `chx rt,ra,rb`: Generate Controls for Halfword Insertion (x-form) (R143). -/
def execChx (rt ra rb : Reg) (s : State) : Result :=
  s.write rt (halfMask (eaX (s.reg ra) (s.reg rb)))

/-- `cwd rt,symbol(ra)`: Generate Controls for Word Insertion (d-form) (R144). -/
def execCwd (rt ra : Reg) (i7 : BitVec 7) (s : State) : Result :=
  s.write rt (wordMask (controlD i7 (s.reg ra)))

/-- `cwx rt,ra,rb`: Generate Controls for Word Insertion (x-form) (R145). -/
def execCwx (rt ra rb : Reg) (s : State) : Result :=
  s.write rt (wordMask (eaX (s.reg ra) (s.reg rb)))

/-- `cdd rt,symbol(ra)`: Generate Controls for Doubleword Insertion (d-form) (R146). -/
def execCdd (rt ra : Reg) (i7 : BitVec 7) (s : State) : Result :=
  s.write rt (dwordMask (controlD i7 (s.reg ra)))

/-- `cdx rt,ra,rb`: Generate Controls for Doubleword Insertion (x-form) (R147). -/
def execCdx (rt ra rb : Reg) (s : State) : Result :=
  s.write rt (dwordMask (eaX (s.reg ra) (s.reg rb)))

end Sys2Proof.Machine
end

