-- ==== Sys2Proof/Machine/Logical.lean ====
section
/-!
DEFINITION. Logical instructions, select and shuffle (spec/43_logical.md).
-/

namespace Sys2Proof.Machine

/-- `and rt,ra,rb`: And (R231). -/
def execAnd (rt ra rb : Reg) (s : State) : Result :=
  s.write rt (s.reg ra &&& s.reg rb)

/-- `andc rt,ra,rb`: And with Complement (R232). -/
def execAndc (rt ra rb : Reg) (s : State) : Result :=
  s.write rt (s.reg ra &&& ~~~(s.reg rb))

/-- `andbi rt,ra,value`: And Byte Immediate (R233). -/
def execAndbi (rt ra : Reg) (i10 : BitVec 10) (s : State) : Result :=
  s.write rt (ofBytes fun j => byte (s.reg ra) j &&& imm8 i10)

/-- `andhi rt,ra,value`: And Halfword Immediate (R234). -/
def execAndhi (rt ra : Reg) (i10 : BitVec 10) (s : State) : Result :=
  s.write rt (ofHalfs fun j => hw (s.reg ra) j &&& imm16 i10)

/-- `andi rt,ra,value`: And Word Immediate (R235). -/
def execAndi (rt ra : Reg) (i10 : BitVec 10) (s : State) : Result :=
  s.write rt (ofWords fun j => word (s.reg ra) j &&& imm32 i10)

/-- `or rt,ra,rb`: Or (R236). -/
def execOr (rt ra rb : Reg) (s : State) : Result :=
  s.write rt (s.reg ra ||| s.reg rb)

/-- `orc rt,ra,rb`: Or with Complement (R237). -/
def execOrc (rt ra rb : Reg) (s : State) : Result :=
  s.write rt (s.reg ra ||| ~~~(s.reg rb))

/-- `orbi rt,ra,value`: Or Byte Immediate (R238). -/
def execOrbi (rt ra : Reg) (i10 : BitVec 10) (s : State) : Result :=
  s.write rt (ofBytes fun j => byte (s.reg ra) j ||| imm8 i10)

/-- `orhi rt,ra,value`: Or Halfword Immediate (R239). -/
def execOrhi (rt ra : Reg) (i10 : BitVec 10) (s : State) : Result :=
  s.write rt (ofHalfs fun j => hw (s.reg ra) j ||| imm16 i10)

/-- `ori rt,ra,value`: Or Word Immediate (R240). -/
def execOri (rt ra : Reg) (i10 : BitVec 10) (s : State) : Result :=
  s.write rt (ofWords fun j => word (s.reg ra) j ||| imm32 i10)

/-- `orx rt,ra`: Or Across (R241). -/
def execOrx (rt ra : Reg) (s : State) : Result :=
  s.write rt (prefQuad
    (word (s.reg ra) 0 ||| word (s.reg ra) 1 ||| word (s.reg ra) 2 ||| word (s.reg ra) 3))

/-- `xor rt,ra,rb`: Exclusive Or (R242). -/
def execXor (rt ra rb : Reg) (s : State) : Result :=
  s.write rt (s.reg ra ^^^ s.reg rb)

/-- `xorbi rt,ra,value`: Exclusive Or Byte Immediate (R243). -/
def execXorbi (rt ra : Reg) (i10 : BitVec 10) (s : State) : Result :=
  s.write rt (ofBytes fun j => byte (s.reg ra) j ^^^ imm8 i10)

/-- `xorhi rt,ra,value`: Exclusive Or Halfword Immediate (R244). -/
def execXorhi (rt ra : Reg) (i10 : BitVec 10) (s : State) : Result :=
  s.write rt (ofHalfs fun j => hw (s.reg ra) j ^^^ imm16 i10)

/-- `xori rt,ra,value`: Exclusive Or Word Immediate (R245). -/
def execXori (rt ra : Reg) (i10 : BitVec 10) (s : State) : Result :=
  s.write rt (ofWords fun j => word (s.reg ra) j ^^^ imm32 i10)

/-- `nand rt,ra,rb`: Nand (R246). -/
def execNand (rt ra rb : Reg) (s : State) : Result :=
  s.write rt (~~~(s.reg ra &&& s.reg rb))

/-- `nor rt,ra,rb`: Nor (R247). -/
def execNor (rt ra rb : Reg) (s : State) : Result :=
  s.write rt (~~~(s.reg ra ||| s.reg rb))

/-- `eqv rt,ra,rb`: Equivalent (R248). -/
def execEqv (rt ra rb : Reg) (s : State) : Result :=
  s.write rt (s.reg ra ^^^ ~~~(s.reg rb))

/-- `selb rt,ra,rb,rc`: Select Bits (R249). -/
def execSelb (rt ra rb rc : Reg) (s : State) : Result :=
  s.write rt ((s.reg rc &&& s.reg rb) ||| (~~~(s.reg rc) &&& s.reg ra))

/-- `shufb rt,ra,rb,rc`: Shuffle Bytes (R250). -/
def execShufb (rt ra rb rc : Reg) (s : State) : Result :=
  s.write rt (ofBytes fun j => shuffleByte (s.reg ra) (s.reg rb) (byte (s.reg rc) j))

end Sys2Proof.Machine
end

