-- ==== Sys2Proof/Machine/ShiftRotate.lean ====
section
/-!
DEFINITION. Shifts and rotates (spec/44_shift_rotate.md).
-/

namespace Sys2Proof.Machine

/-- `shlh rt,ra,rb`: Shift Left Halfword (R261). -/
def execShlh (rt ra rb : Reg) (s : State) : Result :=
  s.write rt (ofHalfs fun j => hw (s.reg ra) j <<< lowBits 5 (hw (s.reg rb) j))

/-- `shlhi rt,ra,value`: Shift Left Halfword Immediate (R262). -/
def execShlhi (rt ra : Reg) (i7 : BitVec 7) (s : State) : Result :=
  s.write rt (ofHalfs fun j => hw (s.reg ra) j <<< lowBits 5 i7)

/-- `shl rt,ra,rb`: Shift Left Word (R263). -/
def execShl (rt ra rb : Reg) (s : State) : Result :=
  s.write rt (ofWords fun j => word (s.reg ra) j <<< lowBits 6 (word (s.reg rb) j))

/-- `shli rt,ra,value`: Shift Left Word Immediate (R264). -/
def execShli (rt ra : Reg) (i7 : BitVec 7) (s : State) : Result :=
  s.write rt (ofWords fun j => word (s.reg ra) j <<< lowBits 6 i7)

/-- `shlqbi rt,ra,rb`: Shift Left Quadword by Bits (R265). -/
def execShlqbi (rt ra rb : Reg) (s : State) : Result :=
  s.write rt (s.reg ra <<< lowBits 3 (pref (s.reg rb)))

/-- `shlqbii rt,ra,value`: Shift Left Quadword by Bits Immediate (R266). -/
def execShlqbii (rt ra : Reg) (i7 : BitVec 7) (s : State) : Result :=
  s.write rt (s.reg ra <<< lowBits 3 i7)

/-- `shlqby rt,ra,rb`: Shift Left Quadword by Bytes (R267). -/
def execShlqby (rt ra rb : Reg) (s : State) : Result :=
  s.write rt (s.reg ra <<< (8 * lowBits 5 (pref (s.reg rb))))

/-- `shlqbyi rt,ra,value`: Shift Left Quadword by Bytes Immediate (R268). -/
def execShlqbyi (rt ra : Reg) (i7 : BitVec 7) (s : State) : Result :=
  s.write rt (s.reg ra <<< (8 * lowBits 5 i7))

/-- `shlqbybi rt,ra,rb`: Shift Left Quadword by Bytes from Bit Shift Count (R269). -/
def execShlqbybi (rt ra rb : Reg) (s : State) : Result :=
  s.write rt (s.reg ra <<< (8 * ((pref (s.reg rb)).extractLsb' 3 5).toNat))

/-- `roth rt,ra,rb`: Rotate Halfword (R270). -/
def execRoth (rt ra rb : Reg) (s : State) : Result :=
  s.write rt (ofHalfs fun j => (hw (s.reg ra) j).rotateLeft (lowBits 4 (hw (s.reg rb) j)))

/-- `rothi rt,ra,value`: Rotate Halfword Immediate (R271). -/
def execRothi (rt ra : Reg) (i7 : BitVec 7) (s : State) : Result :=
  s.write rt (ofHalfs fun j => (hw (s.reg ra) j).rotateLeft (lowBits 4 i7))

/-- `rot rt,ra,rb`: Rotate Word (R272). -/
def execRot (rt ra rb : Reg) (s : State) : Result :=
  s.write rt (ofWords fun j => (word (s.reg ra) j).rotateLeft (lowBits 5 (word (s.reg rb) j)))

/-- `roti rt,ra,value`: Rotate Word Immediate (R273). -/
def execRoti (rt ra : Reg) (i7 : BitVec 7) (s : State) : Result :=
  s.write rt (ofWords fun j => (word (s.reg ra) j).rotateLeft (lowBits 5 i7))

/-- `rotqby rt,ra,rb`: Rotate Quadword by Bytes (R274). -/
def execRotqby (rt ra rb : Reg) (s : State) : Result :=
  s.write rt ((s.reg ra).rotateLeft (8 * lowBits 4 (pref (s.reg rb))))

/-- `rotqbyi rt,ra,value`: Rotate Quadword by Bytes Immediate (R275). -/
def execRotqbyi (rt ra : Reg) (i7 : BitVec 7) (s : State) : Result :=
  s.write rt ((s.reg ra).rotateLeft (8 * lowBits 4 i7))

/-- `rotqbybi rt,ra,rb`: Rotate Quadword by Bytes from Bit Shift Count (R276). -/
def execRotqbybi (rt ra rb : Reg) (s : State) : Result :=
  s.write rt ((s.reg ra).rotateLeft (8 * ((pref (s.reg rb)).extractLsb' 3 4).toNat))

/-- `rotqbi rt,ra,rb`: Rotate Quadword by Bits (R277). -/
def execRotqbi (rt ra rb : Reg) (s : State) : Result :=
  s.write rt ((s.reg ra).rotateLeft (lowBits 3 (pref (s.reg rb))))

/-- `rotqbii rt,ra,value`: Rotate Quadword by Bits Immediate (R278). -/
def execRotqbii (rt ra : Reg) (i7 : BitVec 7) (s : State) : Result :=
  s.write rt ((s.reg ra).rotateLeft (lowBits 3 i7))

/-- `rothm rt,ra,rb`: Rotate and Mask Halfword (R279). -/
def execRothm (rt ra rb : Reg) (s : State) : Result :=
  s.write rt (ofHalfs fun j => hw (s.reg ra) j >>> negLowBits 5 (hw (s.reg rb) j))

/-- `rothmi rt,ra,value`: Rotate and Mask Halfword Immediate (R280). -/
def execRothmi (rt ra : Reg) (i7 : BitVec 7) (s : State) : Result :=
  s.write rt (ofHalfs fun j => hw (s.reg ra) j >>> negLowBits 5 i7)

/-- `rotm rt,ra,rb`: Rotate and Mask Word (R281). -/
def execRotm (rt ra rb : Reg) (s : State) : Result :=
  s.write rt (ofWords fun j => word (s.reg ra) j >>> negLowBits 6 (word (s.reg rb) j))

/-- `rotmi rt,ra,value`: Rotate and Mask Word Immediate (R282). -/
def execRotmi (rt ra : Reg) (i7 : BitVec 7) (s : State) : Result :=
  s.write rt (ofWords fun j => word (s.reg ra) j >>> negLowBits 6 i7)

/-- `rotqmby rt,ra,rb`: Rotate and Mask Quadword by Bytes (R283). -/
def execRotqmby (rt ra rb : Reg) (s : State) : Result :=
  s.write rt (s.reg ra >>> (8 * negLowBits 5 (pref (s.reg rb))))

/-- `rotqmbyi rt,ra,value`: Rotate and Mask Quadword by Bytes Immediate (R284). -/
def execRotqmbyi (rt ra : Reg) (i7 : BitVec 7) (s : State) : Result :=
  s.write rt (s.reg ra >>> (8 * negLowBits 5 i7))

/-- `rotqmbybi rt,ra,rb`: Rotate and Mask Quadword Bytes from Bit Shift Count (R285). -/
def execRotqmbybi (rt ra rb : Reg) (s : State) : Result :=
  s.write rt (s.reg ra >>> (8 * negLowBits 5 ((pref (s.reg rb)).extractLsb' 3 5)))

/-- `rotqmbi rt,ra,rb`: Rotate and Mask Quadword by Bits (R286). -/
def execRotqmbi (rt ra rb : Reg) (s : State) : Result :=
  s.write rt (s.reg ra >>> negLowBits 3 (pref (s.reg rb)))

/-- `rotqmbii rt,ra,value`: Rotate and Mask Quadword by Bits Immediate (R287). -/
def execRotqmbii (rt ra : Reg) (i7 : BitVec 7) (s : State) : Result :=
  s.write rt (s.reg ra >>> negLowBits 3 i7)

/-- `rotmah rt,ra,rb`: Rotate and Mask Algebraic Halfword (R288). -/
def execRotmah (rt ra rb : Reg) (s : State) : Result :=
  s.write rt (ofHalfs fun j => (hw (s.reg ra) j).sshiftRight (negLowBits 5 (hw (s.reg rb) j)))

/-- `rotmahi rt,ra,value`: Rotate and Mask Algebraic Halfword Immediate (R289). -/
def execRotmahi (rt ra : Reg) (i7 : BitVec 7) (s : State) : Result :=
  s.write rt (ofHalfs fun j => (hw (s.reg ra) j).sshiftRight (negLowBits 5 i7))

/-- `rotma rt,ra,rb`: Rotate and Mask Algebraic Word (R290). -/
def execRotma (rt ra rb : Reg) (s : State) : Result :=
  s.write rt (ofWords fun j => (word (s.reg ra) j).sshiftRight (negLowBits 6 (word (s.reg rb) j)))

/-- `rotmai rt,ra,value`: Rotate and Mask Algebraic Word Immediate (R291). -/
def execRotmai (rt ra : Reg) (i7 : BitVec 7) (s : State) : Result :=
  s.write rt (ofWords fun j => (word (s.reg ra) j).sshiftRight (negLowBits 6 i7))

end Sys2Proof.Machine
end

