-- ==== Sys2Proof/Machine/Dispatch.lean ====
section
/-!
DEFINITION. The meaning of every instruction: one arm per constructor of `Instr`, each a call of its meaning.
-/

namespace Sys2Proof.Machine

/-- What an instruction does to a state. -/
def exec (i : Instr) (s : State) : Host.Outcome State Fault Refusal :=
  match i with
  | .lqd rt ra i10 => Sys2Proof.Machine.execLqd rt ra i10 s
  | .lqx rt ra rb => Sys2Proof.Machine.execLqx rt ra rb s
  | .lqa rt i16 => Sys2Proof.Machine.execLqa rt i16 s
  | .lqr rt i16 => Sys2Proof.Machine.execLqr rt i16 s
  | .stqd rt ra i10 => Sys2Proof.Machine.execStqd rt ra i10 s
  | .stqx rt ra rb => Sys2Proof.Machine.execStqx rt ra rb s
  | .stqa rt i16 => Sys2Proof.Machine.execStqa rt i16 s
  | .stqr rt i16 => Sys2Proof.Machine.execStqr rt i16 s
  | .cbd rt ra i7 => Sys2Proof.Machine.execCbd rt ra i7 s
  | .cbx rt ra rb => Sys2Proof.Machine.execCbx rt ra rb s
  | .chd rt ra i7 => Sys2Proof.Machine.execChd rt ra i7 s
  | .chx rt ra rb => Sys2Proof.Machine.execChx rt ra rb s
  | .cwd rt ra i7 => Sys2Proof.Machine.execCwd rt ra i7 s
  | .cwx rt ra rb => Sys2Proof.Machine.execCwx rt ra rb s
  | .cdd rt ra i7 => Sys2Proof.Machine.execCdd rt ra i7 s
  | .cdx rt ra rb => Sys2Proof.Machine.execCdx rt ra rb s
  | .ilh rt i16 => Sys2Proof.Machine.execIlh rt i16 s
  | .ilhu rt i16 => Sys2Proof.Machine.execIlhu rt i16 s
  | .il rt i16 => Sys2Proof.Machine.execIl rt i16 s
  | .ila rt i18 => Sys2Proof.Machine.execIla rt i18 s
  | .iohl rt i16 => Sys2Proof.Machine.execIohl rt i16 s
  | .fsmbi rt i16 => Sys2Proof.Machine.execFsmbi rt i16 s
  | .ah rt ra rb => Sys2Proof.Machine.execAh rt ra rb s
  | .ahi rt ra i10 => Sys2Proof.Machine.execAhi rt ra i10 s
  | .a rt ra rb => Sys2Proof.Machine.execA rt ra rb s
  | .ai rt ra i10 => Sys2Proof.Machine.execAi rt ra i10 s
  | .sfh rt ra rb => Sys2Proof.Machine.execSfh rt ra rb s
  | .sfhi rt ra i10 => Sys2Proof.Machine.execSfhi rt ra i10 s
  | .sf rt ra rb => Sys2Proof.Machine.execSf rt ra rb s
  | .sfi rt ra i10 => Sys2Proof.Machine.execSfi rt ra i10 s
  | .addx rt ra rb => Sys2Proof.Machine.execAddx rt ra rb s
  | .cg rt ra rb => Sys2Proof.Machine.execCg rt ra rb s
  | .cgx rt ra rb => Sys2Proof.Machine.execCgx rt ra rb s
  | .sfx rt ra rb => Sys2Proof.Machine.execSfx rt ra rb s
  | .bg rt ra rb => Sys2Proof.Machine.execBg rt ra rb s
  | .bgx rt ra rb => Sys2Proof.Machine.execBgx rt ra rb s
  | .mpy rt ra rb => Sys2Proof.Machine.execMpy rt ra rb s
  | .mpyu rt ra rb => Sys2Proof.Machine.execMpyu rt ra rb s
  | .mpyi rt ra i10 => Sys2Proof.Machine.execMpyi rt ra i10 s
  | .mpyui rt ra i10 => Sys2Proof.Machine.execMpyui rt ra i10 s
  | .mpya rt ra rb rc => Sys2Proof.Machine.execMpya rt ra rb rc s
  | .mpyh rt ra rb => Sys2Proof.Machine.execMpyh rt ra rb s
  | .mpys rt ra rb => Sys2Proof.Machine.execMpys rt ra rb s
  | .mpyhh rt ra rb => Sys2Proof.Machine.execMpyhh rt ra rb s
  | .mpyhha rt ra rb => Sys2Proof.Machine.execMpyhha rt ra rb s
  | .mpyhhu rt ra rb => Sys2Proof.Machine.execMpyhhu rt ra rb s
  | .mpyhhau rt ra rb => Sys2Proof.Machine.execMpyhhau rt ra rb s
  | .clz rt ra => Sys2Proof.Machine.execClz rt ra s
  | .cntb rt ra => Sys2Proof.Machine.execCntb rt ra s
  | .fsmb rt ra => Sys2Proof.Machine.execFsmb rt ra s
  | .fsmh rt ra => Sys2Proof.Machine.execFsmh rt ra s
  | .fsm rt ra => Sys2Proof.Machine.execFsm rt ra s
  | .gbb rt ra => Sys2Proof.Machine.execGbb rt ra s
  | .gbh rt ra => Sys2Proof.Machine.execGbh rt ra s
  | .gb rt ra => Sys2Proof.Machine.execGb rt ra s
  | .avgb rt ra rb => Sys2Proof.Machine.execAvgb rt ra rb s
  | .absdb rt ra rb => Sys2Proof.Machine.execAbsdb rt ra rb s
  | .sumb rt ra rb => Sys2Proof.Machine.execSumb rt ra rb s
  | .xsbh rt ra => Sys2Proof.Machine.execXsbh rt ra s
  | .xshw rt ra => Sys2Proof.Machine.execXshw rt ra s
  | .xswd rt ra => Sys2Proof.Machine.execXswd rt ra s
  | .and rt ra rb => Sys2Proof.Machine.execAnd rt ra rb s
  | .andc rt ra rb => Sys2Proof.Machine.execAndc rt ra rb s
  | .andbi rt ra i10 => Sys2Proof.Machine.execAndbi rt ra i10 s
  | .andhi rt ra i10 => Sys2Proof.Machine.execAndhi rt ra i10 s
  | .andi rt ra i10 => Sys2Proof.Machine.execAndi rt ra i10 s
  | .or rt ra rb => Sys2Proof.Machine.execOr rt ra rb s
  | .orc rt ra rb => Sys2Proof.Machine.execOrc rt ra rb s
  | .orbi rt ra i10 => Sys2Proof.Machine.execOrbi rt ra i10 s
  | .orhi rt ra i10 => Sys2Proof.Machine.execOrhi rt ra i10 s
  | .ori rt ra i10 => Sys2Proof.Machine.execOri rt ra i10 s
  | .orx rt ra => Sys2Proof.Machine.execOrx rt ra s
  | .xor rt ra rb => Sys2Proof.Machine.execXor rt ra rb s
  | .xorbi rt ra i10 => Sys2Proof.Machine.execXorbi rt ra i10 s
  | .xorhi rt ra i10 => Sys2Proof.Machine.execXorhi rt ra i10 s
  | .xori rt ra i10 => Sys2Proof.Machine.execXori rt ra i10 s
  | .nand rt ra rb => Sys2Proof.Machine.execNand rt ra rb s
  | .nor rt ra rb => Sys2Proof.Machine.execNor rt ra rb s
  | .eqv rt ra rb => Sys2Proof.Machine.execEqv rt ra rb s
  | .selb rt ra rb rc => Sys2Proof.Machine.execSelb rt ra rb rc s
  | .shufb rt ra rb rc => Sys2Proof.Machine.execShufb rt ra rb rc s
  | .shlh rt ra rb => Sys2Proof.Machine.execShlh rt ra rb s
  | .shlhi rt ra i7 => Sys2Proof.Machine.execShlhi rt ra i7 s
  | .shl rt ra rb => Sys2Proof.Machine.execShl rt ra rb s
  | .shli rt ra i7 => Sys2Proof.Machine.execShli rt ra i7 s
  | .shlqbi rt ra rb => Sys2Proof.Machine.execShlqbi rt ra rb s
  | .shlqbii rt ra i7 => Sys2Proof.Machine.execShlqbii rt ra i7 s
  | .shlqby rt ra rb => Sys2Proof.Machine.execShlqby rt ra rb s
  | .shlqbyi rt ra i7 => Sys2Proof.Machine.execShlqbyi rt ra i7 s
  | .shlqbybi rt ra rb => Sys2Proof.Machine.execShlqbybi rt ra rb s
  | .roth rt ra rb => Sys2Proof.Machine.execRoth rt ra rb s
  | .rothi rt ra i7 => Sys2Proof.Machine.execRothi rt ra i7 s
  | .rot rt ra rb => Sys2Proof.Machine.execRot rt ra rb s
  | .roti rt ra i7 => Sys2Proof.Machine.execRoti rt ra i7 s
  | .rotqby rt ra rb => Sys2Proof.Machine.execRotqby rt ra rb s
  | .rotqbyi rt ra i7 => Sys2Proof.Machine.execRotqbyi rt ra i7 s
  | .rotqbybi rt ra rb => Sys2Proof.Machine.execRotqbybi rt ra rb s
  | .rotqbi rt ra rb => Sys2Proof.Machine.execRotqbi rt ra rb s
  | .rotqbii rt ra i7 => Sys2Proof.Machine.execRotqbii rt ra i7 s
  | .rothm rt ra rb => Sys2Proof.Machine.execRothm rt ra rb s
  | .rothmi rt ra i7 => Sys2Proof.Machine.execRothmi rt ra i7 s
  | .rotm rt ra rb => Sys2Proof.Machine.execRotm rt ra rb s
  | .rotmi rt ra i7 => Sys2Proof.Machine.execRotmi rt ra i7 s
  | .rotqmby rt ra rb => Sys2Proof.Machine.execRotqmby rt ra rb s
  | .rotqmbyi rt ra i7 => Sys2Proof.Machine.execRotqmbyi rt ra i7 s
  | .rotqmbybi rt ra rb => Sys2Proof.Machine.execRotqmbybi rt ra rb s
  | .rotqmbi rt ra rb => Sys2Proof.Machine.execRotqmbi rt ra rb s
  | .rotqmbii rt ra i7 => Sys2Proof.Machine.execRotqmbii rt ra i7 s
  | .rotmah rt ra rb => Sys2Proof.Machine.execRotmah rt ra rb s
  | .rotmahi rt ra i7 => Sys2Proof.Machine.execRotmahi rt ra i7 s
  | .rotma rt ra rb => Sys2Proof.Machine.execRotma rt ra rb s
  | .rotmai rt ra i7 => Sys2Proof.Machine.execRotmai rt ra i7 s
  | .heq ra rb => Sys2Proof.Machine.execHeq ra rb s
  | .heqi ra i10 => Sys2Proof.Machine.execHeqi ra i10 s
  | .hgt ra rb => Sys2Proof.Machine.execHgt ra rb s
  | .hgti ra i10 => Sys2Proof.Machine.execHgti ra i10 s
  | .hlgt ra rb => Sys2Proof.Machine.execHlgt ra rb s
  | .hlgti ra i10 => Sys2Proof.Machine.execHlgti ra i10 s
  | .ceqb rt ra rb => Sys2Proof.Machine.execCeqb rt ra rb s
  | .ceqbi rt ra i10 => Sys2Proof.Machine.execCeqbi rt ra i10 s
  | .ceqh rt ra rb => Sys2Proof.Machine.execCeqh rt ra rb s
  | .ceqhi rt ra i10 => Sys2Proof.Machine.execCeqhi rt ra i10 s
  | .ceq rt ra rb => Sys2Proof.Machine.execCeq rt ra rb s
  | .ceqi rt ra i10 => Sys2Proof.Machine.execCeqi rt ra i10 s
  | .cgtb rt ra rb => Sys2Proof.Machine.execCgtb rt ra rb s
  | .cgtbi rt ra i10 => Sys2Proof.Machine.execCgtbi rt ra i10 s
  | .cgth rt ra rb => Sys2Proof.Machine.execCgth rt ra rb s
  | .cgthi rt ra i10 => Sys2Proof.Machine.execCgthi rt ra i10 s
  | .cgt rt ra rb => Sys2Proof.Machine.execCgt rt ra rb s
  | .cgti rt ra i10 => Sys2Proof.Machine.execCgti rt ra i10 s
  | .clgtb rt ra rb => Sys2Proof.Machine.execClgtb rt ra rb s
  | .clgtbi rt ra i10 => Sys2Proof.Machine.execClgtbi rt ra i10 s
  | .clgth rt ra rb => Sys2Proof.Machine.execClgth rt ra rb s
  | .clgthi rt ra i10 => Sys2Proof.Machine.execClgthi rt ra i10 s
  | .clgt rt ra rb => Sys2Proof.Machine.execClgt rt ra rb s
  | .clgti rt ra i10 => Sys2Proof.Machine.execClgti rt ra i10 s
  | .br i16 => Sys2Proof.Machine.execBr i16 s
  | .bra i16 => Sys2Proof.Machine.execBra i16 s
  | .brsl rt i16 => Sys2Proof.Machine.execBrsl rt i16 s
  | .brasl rt i16 => Sys2Proof.Machine.execBrasl rt i16 s
  | .bi ra d e => Sys2Proof.Machine.execBi ra d e s
  | .iret ra d e => Sys2Proof.Machine.execIret ra d e s
  | .bisled rt ra d e => Sys2Proof.Machine.execBisled rt ra d e s
  | .bisl rt ra d e => Sys2Proof.Machine.execBisl rt ra d e s
  | .brnz rt i16 => Sys2Proof.Machine.execBrnz rt i16 s
  | .brz rt i16 => Sys2Proof.Machine.execBrz rt i16 s
  | .brhnz rt i16 => Sys2Proof.Machine.execBrhnz rt i16 s
  | .brhz rt i16 => Sys2Proof.Machine.execBrhz rt i16 s
  | .biz rt ra d e => Sys2Proof.Machine.execBiz rt ra d e s
  | .binz rt ra d e => Sys2Proof.Machine.execBinz rt ra d e s
  | .bihz rt ra d e => Sys2Proof.Machine.execBihz rt ra d e s
  | .bihnz rt ra d e => Sys2Proof.Machine.execBihnz rt ra d e s
  | .hbr roh rol ra p => Sys2Proof.Machine.execHbr roh rol ra p s
  | .hbra roh rol i16 => Sys2Proof.Machine.execHbra roh rol i16 s
  | .hbrr roh rol i16 => Sys2Proof.Machine.execHbrr roh rol i16 s
  | .fa rt ra rb => Sys2Proof.Machine.execFa rt ra rb s
  | .dfa rt ra rb => Sys2Proof.Machine.execDfa rt ra rb s
  | .fs rt ra rb => Sys2Proof.Machine.execFs rt ra rb s
  | .dfs rt ra rb => Sys2Proof.Machine.execDfs rt ra rb s
  | .fm rt ra rb => Sys2Proof.Machine.execFm rt ra rb s
  | .dfm rt ra rb => Sys2Proof.Machine.execDfm rt ra rb s
  | .fma rt ra rb rc => Sys2Proof.Machine.execFma rt ra rb rc s
  | .dfma rt ra rb => Sys2Proof.Machine.execDfma rt ra rb s
  | .fnms rt ra rb rc => Sys2Proof.Machine.execFnms rt ra rb rc s
  | .dfnms rt ra rb => Sys2Proof.Machine.execDfnms rt ra rb s
  | .fms rt ra rb rc => Sys2Proof.Machine.execFms rt ra rb rc s
  | .dfms rt ra rb => Sys2Proof.Machine.execDfms rt ra rb s
  | .dfnma rt ra rb => Sys2Proof.Machine.execDfnma rt ra rb s
  | .frest rt ra => Sys2Proof.Machine.execFrest rt ra s
  | .frsqest rt ra => Sys2Proof.Machine.execFrsqest rt ra s
  | .fi rt ra rb => Sys2Proof.Machine.execFi rt ra rb s
  | .csflt rt ra i8 => Sys2Proof.Machine.execCsflt rt ra i8 s
  | .cflts rt ra i8 => Sys2Proof.Machine.execCflts rt ra i8 s
  | .cuflt rt ra i8 => Sys2Proof.Machine.execCuflt rt ra i8 s
  | .cfltu rt ra i8 => Sys2Proof.Machine.execCfltu rt ra i8 s
  | .frds rt ra => Sys2Proof.Machine.execFrds rt ra s
  | .fesd rt ra => Sys2Proof.Machine.execFesd rt ra s
  | .dfceq rt ra rb => Sys2Proof.Machine.execDfceq rt ra rb s
  | .dfcmeq rt ra rb => Sys2Proof.Machine.execDfcmeq rt ra rb s
  | .dfcgt rt ra rb => Sys2Proof.Machine.execDfcgt rt ra rb s
  | .dfcmgt rt ra rb => Sys2Proof.Machine.execDfcmgt rt ra rb s
  | .dftsv rt ra i7 => Sys2Proof.Machine.execDftsv rt ra i7 s
  | .fceq rt ra rb => Sys2Proof.Machine.execFceq rt ra rb s
  | .fcmeq rt ra rb => Sys2Proof.Machine.execFcmeq rt ra rb s
  | .fcgt rt ra rb => Sys2Proof.Machine.execFcgt rt ra rb s
  | .fcmgt rt ra rb => Sys2Proof.Machine.execFcmgt rt ra rb s
  | .fscrwr ra rt => Sys2Proof.Machine.execFscrwr ra rt s
  | .fscrrd rt => Sys2Proof.Machine.execFscrrd rt s
  | .stop sig => Sys2Proof.Machine.execStop sig s
  | .stopd rt ra rb => Sys2Proof.Machine.execStopd rt ra rb s
  | .lnop => Sys2Proof.Machine.execLnop s
  | .nop rt => Sys2Proof.Machine.execNop rt s
  | .sync c => Sys2Proof.Machine.execSync c s
  | .dsync => Sys2Proof.Machine.execDsync s
  | .mfspr rt sa => Sys2Proof.Machine.execMfspr rt sa s
  | .mtspr sa rt => Sys2Proof.Machine.execMtspr sa rt s
  | .rdch rt ca => Sys2Proof.Machine.execRdch rt ca s
  | .rchcnt rt ca => Sys2Proof.Machine.execRchcnt rt ca s
  | .wrch ca rt => Sys2Proof.Machine.execWrch ca rt s

end Sys2Proof.Machine
end

