-- ==== Sys2Proof/Machine/Run.lean ====
section
/-!
DEFINITION. One step: the devices' turn, the boundary at which the interrupt is sampled, one instruction.
-/

namespace Sys2Proof.Machine

/-- One instruction (spec/10_state.md R20). A stopped SPU executes nothing (R40); a channel instruction that
waits is tried again (spec/48_control_channel.md R479); a word that nothing has supplied is a fault (R531), safe
(log entry 27); a word that is no instruction is the event IllegalInstruction (spec/30_encoding.md R105), safe
(log entry 3). -/
def State.runInstruction (s : State) : Result :=
  match s.run with
  | .stopped _ => .next s
  | .running =>
    match s.wait with
    | some w => .next (s.retry w)
    | none =>
      match s.fetch.1 with
      | none => .fault (.unsuppliedWord s.pc)
      | some w =>
        match decode w with
        | .ok i => exec i s.fetch.2
        | .error _ => .fault (.illegalInstruction s.pc w)

/-- The rest of a step once the devices' early acts are done: the interrupt if it is due (spec/60_exceptions.md
R500), otherwise the instruction; the devices' late acts, among which `State.turn` leaves no start, stand between the
sample and the instruction (log entries 10, 33). -/
def State.runBoundary (s : State) (late : List DeviceAct) : Result :=
  if s.interruptDue then
    match s.takeInterrupt.applyActs late with
    | .ok t => .next t
    | .error r => .refused r
  else
    match s.applyActs late with
    | .ok t => t.runInstruction
    | .error r => .refused r

/-- One step: the devices' early acts, then the boundary and what follows. -/
def State.runStep (s : State) : Result :=
  match s.dropTurn.applyActs s.turn.early with
  | .ok t => t.runBoundary s.turn.late
  | .error r => .refused r

/-- The state in which the next step fetches the word `w` at pc and runs it: the word stands in local storage
with no older value of it fetchable, the SPU runs, waits for nothing, and neither a device nor the interrupt
comes first (log entry 38). -/
def State.placeWord (s : State) (w : Word) : State :=
  { s with
    ls := s.ls.writeBytes s.pc.toNat (bytesOfWord w)
    fetchHist := s.fetchHist.filter fun o => o.addr != s.pc.toNat
    run := .running
    wait := none
    extCond := s.extCond && !s.ie
    devices := [] }

end Sys2Proof.Machine
end

