-- ==== Sys2Proof/Machine/Step.lean ====
section
/-!
DEFINITION. The step function, and where it fetches its next instruction.
-/

namespace Sys2Proof.Machine

/-- One step of the SPU and its environment. -/
def step (s : State) : Host.Outcome State Fault Refusal := s.runStep

/-- `s` with the instruction whose bits are `w` stored where the next step fetches. -/
def State.withFetchWord (s : State) (nbits w : Nat) : State := s.placeWord (tableWord nbits w)

end Sys2Proof.Machine
end

