-- ==== Sys2Proof/Safety.lean ====
section
/-!
DEFINITION. The terms in which statements are made: frames (what an instruction leaves unchanged), the tables of the
spec that range over all instructions, floating-point rules told of rational numbers, the end of a run, and the
invariant.
-/

namespace Sys2Proof.Machine

/- Frames. -/

/-- Every byte of local storage is as before: the same one is supplied, or none is. -/
def SameBytes (s t : State) : Prop := ∀ a, t.ls.supplied a = s.ls.supplied a

/-- Every general register reads as before. -/
def SameRegs (s t : State) : Prop := ∀ r, t.reg r = s.reg r

/-- Every general register but `rt` reads as before. -/
def SameRegsBut (rt : Reg) (s t : State) : Prop := ∀ r, r ≠ rt → t.reg r = s.reg r

/-- Unchanged: SRR0 and its pending value, the interrupt enable, the special-purpose registers, the channels, the
run state, a waiting channel instruction. -/
structure SameControl (s t : State) : Prop where
  srr0 : t.srr0 = s.srr0
  srr0Pending : t.srr0Pending = s.srr0Pending
  ie : t.ie = s.ie
  spr : t.spr = s.spr
  chan : t.chan = s.chan
  run : t.run = s.run
  wait : t.wait = s.wait

/-- Unchanged: what no instruction changes, LSLR, the external condition, the devices' acts, the configuration. -/
structure SameEnv (s t : State) : Prop where
  lslr : t.lslr = s.lslr
  extCond : t.extCond = s.extCond
  devices : t.devices = s.devices
  cfg : t.cfg = s.cfg

/-- Unchanged: the histories of unsynchronised storage (spec/20_memory.md R73). -/
structure SameHist (s t : State) : Prop where
  dataHist : t.dataHist = s.dataHist
  fetchHist : t.fetchHist = s.fetchHist

/-- Unchanged: every byte of local storage and everything beside the registers, pc, FPSCR and the count of free
values. -/
structure SameRest (s t : State) : Prop where
  bytes : SameBytes s t
  control : SameControl s t
  env : SameEnv s t
  hist : SameHist s t

/-- The frame of an instruction that writes register `rt`: beside `rt` and pc nothing changes, no other register, no
byte of local storage, not FPSCR. -/
structure RegFrame (rt : Reg) (s t : State) : Prop where
  regs : SameRegsBut rt s t
  fpscr : t.fpscr = s.fpscr
  free : t.free = s.free
  rest : SameRest s t

/-- The frame of a floating-point instruction: `rt` is written, `flags` are ORed into FPSCR
(spec/47_floating_point.md R405); beside these and pc nothing changes. -/
structure FlagFrame (rt : Reg) (flags : Quad) (s t : State) : Prop where
  regs : SameRegsBut rt s t
  fpscr : t.fpscr = s.fpscr ||| flags
  free : t.free = s.free
  rest : SameRest s t

/-- The frame of an instruction that goes on to `pc` and changes nothing else. -/
structure PcFrame (pc : Word) (s t : State) : Prop where
  pc : t.pc = pc
  regs : SameRegs s t
  fpscr : t.fpscr = s.fpscr
  free : t.free = s.free
  rest : SameRest s t

/-- `i` completes: register `rt` receives a value with property `P`, and nothing else but pc changes. -/
def Writes (i : Instr) (s : State) (rt : Reg) (P : Quad → Prop) : Prop :=
  ∃ t, exec i s = .next t ∧ RegFrame rt s t ∧ P (t.reg rt)

/-- `i` completes: register `rt` receives a value and FPSCR flags that have property `P` together, and nothing else
but pc changes. -/
def WritesFlags (i : Instr) (s : State) (rt : Reg) (P : Quad → Quad → Prop) : Prop :=
  ∃ t flags, exec i s = .next t ∧ FlagFrame rt flags s t ∧ P (t.reg rt) flags

/-- The instructions, executed one after the other from `s`, complete in `t`. -/
def RunsTo : List Instr → State → State → Prop
  | [], s, t => t = s
  | i :: is, s, t => ∃ u, exec i s = .next u ∧ RunsTo is u t

/-- Everything reads as before but local storage from `a` to `a + 15`, the histories of unsynchronised storage and
pc. -/
structure StoreFrame (a : Nat) (s t : State) : Prop where
  regs : SameRegs s t
  fpscr : t.fpscr = s.fpscr
  free : t.free = s.free
  bytes : ∀ b, ¬(a ≤ b ∧ b < a + 16) → t.ls.supplied b = s.ls.supplied b
  control : SameControl s t
  env : SameEnv s t

/-- `i` completes: the quadword of register `rt` stands at local storage address `a`, most significant byte first,
and nothing else but the histories and pc changes. -/
def Stores (i : Instr) (s : State) (rt : Reg) (a : Nat) : Prop :=
  ∃ t, exec i s = .next t ∧ StoreFrame a s t ∧ ∀ j < 16, t.ls.supplied (a + j) = some (byte (s.reg rt) j)

/-- `i` completes and goes on to `pc`, nothing else changes. -/
def GoesTo (i : Instr) (s : State) (pc : Word) : Prop := ∃ t, exec i s = .next t ∧ PcFrame pc s t

/-- A load completes: where local storage has one value the SPU may see at the effective address `ea`
(spec/20_memory.md R73 (a)), register `rt` receives the 16 bytes from the local storage address on (R53). -/
def Loads (i : Instr) (s : State) (rt : Reg) (ea : Word) : Prop :=
  loadOlder (lsa s.lslr ea).toNat s.dataHist = [] →
    Writes i s rt fun q => ∀ j < 16, byte q j = s.ls.byteAt ((lsa s.lslr ea).toNat + j)

/-- A load completes whatever the SPU may see: register `rt` receives one of the values R73 (a) allows; nothing
else but pc and the count of free values changes. -/
def LoadsSome (i : Instr) (s : State) (rt : Reg) (ea : Word) : Prop :=
  ∃ t, exec i s = .next t ∧ SameRegsBut rt s t ∧ t.fpscr = s.fpscr ∧ SameRest s t ∧
    t.reg rt ∈ s.loadCandidates (lsa s.lslr ea).toNat

/-- A branch with link completes: it goes on to `pc`, register `rt` receives the address of the next instruction in
its preferred slot and zeros beside it, nothing else changes. -/
def LinksTo (i : Instr) (s : State) (rt : Reg) (pc : Word) : Prop :=
  ∃ t, exec i s = .next t ∧ RegFrame rt s t ∧ t.pc = pc ∧ pref (t.reg rt) = (s.pc + 4#32) &&& s.lslr ∧
    ∀ j, 0 < j → j < 4 → word (t.reg rt) j = 0#32

/-- The state after a taken branch: pc and the interrupt enable, nothing else. -/
structure BranchFrame (pc : Word) (ie : Bool) (s t : State) : Prop where
  pc : t.pc = pc
  ie : t.ie = ie
  fpscr : t.fpscr = s.fpscr
  bytes : SameBytes s t
  srr0 : t.srr0 = s.srr0
  srr0Pending : t.srr0Pending = s.srr0Pending
  spr : t.spr = s.spr
  chan : t.chan = s.chan
  run : t.run = s.run
  wait : t.wait = s.wait
  env : SameEnv s t
  hist : SameHist s t

/-- What a taken indirect branch with feature bits D, E that are not both set leaves in IE
(spec/45_compare_branch_halt.md R342). -/
def ieAfter (d e ie : Bool) : Bool :=
  match d, e with
  | false, false => ie
  | false, true => true
  | true, _ => false

/-- A taken indirect branch completes: it goes on to the address in the preferred slot of `ra`, masked with LSLR, its
two low bits cleared; IE changes as D and E say; nothing else changes. -/
def BranchesIndirectly (i : Instr) (s : State) (ra : Reg) (d e : Bool) : Prop :=
  ∃ t, exec i s = .next t ∧ SameRegs s t ∧ t.free = s.free ∧
    BranchFrame (pref (s.reg ra) &&& s.lslr &&& 0xFFFFFFFC#32) (ieAfter d e s.ie) s t

/-- The same, and register `rt` receives the address of the next instruction and zeros beside it. -/
def BranchesIndirectlyLinked (i : Instr) (s : State) (rt ra : Reg) (d e : Bool) : Prop :=
  ∃ t, exec i s = .next t ∧ SameRegsBut rt s t ∧ t.free = s.free ∧
    BranchFrame (pref (s.reg ra) &&& s.lslr &&& 0xFFFFFFFC#32) (ieAfter d e s.ie) s t ∧
    pref (t.reg rt) = (s.pc + 4#32) &&& s.lslr ∧ ∀ j, 0 < j → j < 4 → word (t.reg rt) j = 0#32

/-- A conditional indirect branch completes: taken where `c` holds and D, E are not both set, otherwise it goes on
to the next instruction whatever D and E are. -/
def BranchesIf (i : Instr) (s : State) (ra : Reg) (d e : Bool) (c : Prop) : Prop :=
  (c → (d && e) = false → BranchesIndirectly i s ra d e) ∧ (¬c → GoesTo i s ((s.pc + 4#32) &&& s.lslr))

/-- Instructions stop with no other effect than a stop event: registers, FPSCR, bytes of local storage, the
interrupt enable, channels, special-purpose registers and the environment read as before; as every stop event does
(spec/20_memory.md R70), it performs a `sync.c`. -/
structure StopFrame (pc : Word) (ev : StopEvent) (s t : State) : Prop where
  pc : t.pc = pc
  run : t.run = .stopped ev
  regs : SameRegs s t
  fpscr : t.fpscr = s.fpscr
  free : t.free = s.free
  bytes : SameBytes s t
  ie : t.ie = s.ie
  spr : t.spr = s.spr
  chan : t.chan = s.chan
  wait : t.wait = none
  env : SameEnv s t
  srr0 : t.srr0 = s.srr0Pending.getD s.srr0
  srr0Pending : t.srr0Pending = none
  dataHist : t.dataHist = []
  fetchHist : t.fetchHist = []

/-- `i` completes by stopping the SPU. -/
def StopsWith (i : Instr) (s : State) (pc : Word) (ev : StopEvent) : Prop :=
  ∃ t, exec i s = .next t ∧ StopFrame pc ev s t

/-- A halt: where the condition holds the SPU stops at the halt, otherwise it goes on to the next instruction. -/
def HaltsIf (i : Instr) (s : State) (c : Prop) : Prop :=
  (¬c → GoesTo i s ((s.pc + 4#32) &&& s.lslr)) ∧ (c → StopsWith i s s.pc (.halt s.pc))

/-- The frame of a channel instruction that completes: the channels but `ca`, FPSCR, bytes of local storage, IE, the
special-purpose registers, the run state and the environment read as before, and nothing waits. -/
structure ChannelFrame (ca : BitVec 7) (s t : State) : Prop where
  chan : ∀ c : BitVec 7, c ≠ ca → t.chan[c.toNat] = s.chan[c.toNat]
  fpscr : t.fpscr = s.fpscr
  bytes : SameBytes s t
  ie : t.ie = s.ie
  spr : t.spr = s.spr
  run : t.run = s.run
  wait : t.wait = none
  srr0 : t.srr0 = s.srr0
  env : SameEnv s t
  hist : SameHist s t

/-- No device acts, the SPU runs, no channel instruction waits and no interrupt is due: the next step is one
instruction. -/
structure State.Quiet (s : State) : Prop where
  devices : s.devices = []
  run : s.run = .running
  wait : s.wait = none
  interrupt : (s.ie && s.extCond) = false

end Sys2Proof.Machine

namespace Sys2Proof

/- Tables of the spec that range over all instructions. -/

/-- The register an instruction writes, if it writes one. A false target is none (spec/30_encoding.md R104). -/
def Instr.target : Instr → Option Reg
  | .stqd .. | .stqx .. | .stqa .. | .stqr .. => none
  | .heq .. | .heqi .. | .hgt .. | .hgti .. | .hlgt .. | .hlgti .. => none
  | .br .. | .bra .. | .brnz .. | .brz .. | .brhnz .. | .brhz .. => none
  | .bi .. | .iret .. | .biz .. | .binz .. | .bihz .. | .bihnz .. => none
  | .hbr .. | .hbra .. | .hbrr .. => none
  | .fscrwr .. | .stop .. | .stopd .. | .lnop | .nop .. | .sync .. | .dsync | .mtspr .. | .wrch .. => none
  | .brsl rt _ | .brasl rt _ => some rt
  | .bisled rt .. | .bisl rt .. => some rt
  | .lqd rt .. | .lqx rt .. | .lqa rt _ | .lqr rt _ => some rt
  | .cbd rt .. | .cbx rt .. | .chd rt .. | .chx rt .. | .cwd rt .. | .cwx rt .. | .cdd rt .. | .cdx rt .. => some rt
  | .ilh rt _ | .ilhu rt _ | .il rt _ | .ila rt _ | .iohl rt _ | .fsmbi rt _ => some rt
  | .ah rt .. | .ahi rt .. | .a rt .. | .ai rt .. | .sfh rt .. | .sfhi rt .. | .sf rt .. | .sfi rt .. => some rt
  | .addx rt .. | .cg rt .. | .cgx rt .. | .sfx rt .. | .bg rt .. | .bgx rt .. => some rt
  | .mpy rt .. | .mpyu rt .. | .mpyi rt .. | .mpyui rt .. | .mpya rt .. | .mpyh rt .. | .mpys rt .. => some rt
  | .mpyhh rt .. | .mpyhha rt .. | .mpyhhu rt .. | .mpyhhau rt .. => some rt
  | .clz rt _ | .cntb rt _ | .fsmb rt _ | .fsmh rt _ | .fsm rt _ | .gbb rt _ | .gbh rt _ | .gb rt _ => some rt
  | .avgb rt .. | .absdb rt .. | .sumb rt .. | .xsbh rt _ | .xshw rt _ | .xswd rt _ => some rt
  | .and rt .. | .andc rt .. | .andbi rt .. | .andhi rt .. | .andi rt .. => some rt
  | .or rt .. | .orc rt .. | .orbi rt .. | .orhi rt .. | .ori rt .. | .orx rt _ => some rt
  | .xor rt .. | .xorbi rt .. | .xorhi rt .. | .xori rt .. | .nand rt .. | .nor rt .. | .eqv rt .. => some rt
  | .selb rt .. | .shufb rt .. => some rt
  | .shlh rt .. | .shlhi rt .. | .shl rt .. | .shli rt .. | .shlqbi rt .. | .shlqbii rt .. => some rt
  | .shlqby rt .. | .shlqbyi rt .. | .shlqbybi rt .. => some rt
  | .roth rt .. | .rothi rt .. | .rot rt .. | .roti rt .. | .rotqby rt .. | .rotqbyi rt .. => some rt
  | .rotqbybi rt .. | .rotqbi rt .. | .rotqbii rt .. => some rt
  | .rothm rt .. | .rothmi rt .. | .rotm rt .. | .rotmi rt .. | .rotqmby rt .. | .rotqmbyi rt .. => some rt
  | .rotqmbybi rt .. | .rotqmbi rt .. | .rotqmbii rt .. => some rt
  | .rotmah rt .. | .rotmahi rt .. | .rotma rt .. | .rotmai rt .. => some rt
  | .ceqb rt .. | .ceqbi rt .. | .ceqh rt .. | .ceqhi rt .. | .ceq rt .. | .ceqi rt .. => some rt
  | .cgtb rt .. | .cgtbi rt .. | .cgth rt .. | .cgthi rt .. | .cgt rt .. | .cgti rt .. => some rt
  | .clgtb rt .. | .clgtbi rt .. | .clgth rt .. | .clgthi rt .. | .clgt rt .. | .clgti rt .. => some rt
  | .fa rt .. | .dfa rt .. | .fs rt .. | .dfs rt .. | .fm rt .. | .dfm rt .. | .fma rt .. | .dfma rt .. => some rt
  | .fnms rt .. | .dfnms rt .. | .fms rt .. | .dfms rt .. | .dfnma rt .. => some rt
  | .frest rt _ | .frsqest rt _ | .fi rt .. | .csflt rt .. | .cflts rt .. | .cuflt rt .. | .cfltu rt .. => some rt
  | .frds rt _ | .fesd rt _ => some rt
  | .dfceq rt .. | .dfcmeq rt .. | .dfcgt rt .. | .dfcmgt rt .. | .dftsv rt .. => some rt
  | .fceq rt .. | .fcmeq rt .. | .fcgt rt .. | .fcmgt rt .. | .fscrrd rt => some rt
  | .mfspr rt _ | .rdch rt _ | .rchcnt rt _ => some rt

/-- The four stores. -/
def Instr.stores : Instr → Bool
  | .stqd .. | .stqx .. | .stqa .. | .stqr .. => true
  | _ => false

/-- The D and E feature bits of the indirect branches and `iret` (spec/60_exceptions.md R496). -/
def Instr.features : Instr → Option (Bool × Bool)
  | .bi _ d e | .iret _ d e | .bisled _ _ d e | .bisl _ _ d e => some (d, e)
  | .biz _ _ d e | .binz _ _ d e | .bihz _ _ d e | .bihnz _ _ d e => some (d, e)
  | _ => none

/-- Instructions that may go on elsewhere than to the next word: branches, halts, and the channel instructions that
may wait or stop. -/
def Instr.mayLeaveSequence : Instr → Bool
  | .br .. | .bra .. | .brsl .. | .brasl .. | .brnz .. | .brz .. | .brhnz .. | .brhz .. => true
  | .bi .. | .iret .. | .bisled .. | .bisl .. | .biz .. | .binz .. | .bihz .. | .bihnz .. => true
  | .heq .. | .heqi .. | .hgt .. | .hgti .. | .hlgt .. | .hlgti .. => true
  | .rdch .. | .wrch .. => true
  | _ => false

/-- The flags OVF, UNF, DIFF of the four single-precision slices (spec/10_state.md R28). -/
def singleFlagMask : Quad := 0x00000007_00000007_00000007_00000007#128
/-- The flag DBZ of the four slices (R28). -/
def dbzMask : Quad := 0x00000000_00000000_00000000_00000F00#128
/-- OVF, UNF, INX, INV, NaN, DENORM of the two double-precision slices (R28). -/
def doubleFlagMask : Quad := 0x00000000_00003F00_00003F00_00000000#128
/-- INV, NaN, DENORM of the two double-precision slices (R28). -/
def extendFlagMask : Quad := 0x00000000_00000700_00000700_00000000#128
/-- INV of the two double-precision slices (R28). -/
def invMask : Quad := 0x00000000_00000400_00000400_00000000#128

/-- The FPSCR flags an instruction may set: Tables 9-2 and 9-5 and the pages of the double compares
(spec/47_floating_point.md R396, R404, R432 to R435); a conversion to integer sets none, but where its scale is
outside 0 to 127 the spec's D19 lets it add those of single precision (log entry 19). Every instruction that is not
listed sets none. -/
def Instr.flagMask : Instr → Quad
  | .fa .. | .fs .. | .fm .. | .fma .. | .fms .. | .fnms .. | .fi .. => singleFlagMask
  | .csflt .. | .cuflt .. => singleFlagMask
  | .cflts _ _ i8 | .cfltu _ _ i8 => if (173#8 - i8).toNat ≤ 127 then 0#128 else singleFlagMask
  | .frest .. | .frsqest .. => dbzMask
  | .dfa .. | .dfs .. | .dfm .. | .dfma .. | .dfms .. | .dfnms .. | .dfnma .. | .frds .. => doubleFlagMask
  | .fesd .. => extendFlagMask
  | .dfceq .. | .dfcmeq .. | .dfcgt .. | .dfcmgt .. => invMask
  | _ => 0#128

end Sys2Proof

namespace Sys2Proof.Machine

/- Single precision over rational numbers (spec/47_floating_point.md R392, R395). -/

/-- `(-1)^neg * x`. -/
def withSign (neg : Bool) (x : ℚ) : ℚ := if neg then -x else x

/-- `sx(w)`, the extended-range value of a word (R392). -/
def singleValue (w : Word) : ℚ :=
  if sExp w = 0 then 0 else withSign (w.getLsbD 31) ((2 ^ 23 + sFrac w) * 2 ^ ((sExp w : ℤ) - 150))

/-- Smax, `2^128 * (2 - 2^-23)` (R392). -/
def singleMax : ℚ := 2 ^ 128 * (2 - 1 / 2 ^ 23)
/-- Smin, `2^-126` (R392). -/
def singleMin : ℚ := 1 / 2 ^ 126

/-- `sround(r)` delivers the word `w` and the flags `f`: zero, saturation, flush to zero, truncation (R395). -/
def SingleRounds (r : ℚ) (w : Word) (f : SingleFlags) : Prop :=
  if r = 0 then w = 0#32 ∧ f = ⟨false, false, false⟩
  else if singleMax < |r| then w = BitVec.ofBool (r < 0) ++ 0x7FFFFFFF#31 ∧ f = ⟨true, false, true⟩
  else if |r| < singleMin then w = 0#32 ∧ f = ⟨false, true, true⟩
  else ∃ e m : ℕ, 1 ≤ e ∧ e ≤ 255 ∧ (2 : ℚ) ^ ((e : ℤ) - 127) ≤ |r| ∧ |r| < (2 : ℚ) ^ ((e : ℤ) - 126) ∧
    (m : ℤ) = ⌊|r| / (2 : ℚ) ^ ((e : ℤ) - 150)⌋ ∧
    w = BitVec.ofBool (r < 0) ++ (BitVec.ofNat 8 e ++ BitVec.ofNat 23 (m - 2 ^ 23)) ∧
    f = ⟨false, false, e == 255⟩

/-- FP_SINGLE of the configuration delivers `w` and `f` for an operation whose exact result is `r` and whose
floating-point source words are `inputs`: in the reference instance `sround(r)` with DIFF added by the input test
(R395), otherwise the implementation's own function (R391, R393). -/
def SingleDelivers (cfg : Config) (op : SingleOp) (a b c : Word) (inputs : List Word) (r : ℚ) (w : Word)
    (f : SingleFlags) : Prop :=
  (cfg.fpSingleRef = true → ∃ g, SingleRounds r w g ∧
    f = { g with diff := g.diff || inputs.any fun x => sExp x == 255 || (sExp x == 0 && sFrac x != 0) }) ∧
  (cfg.fpSingleRef = false → (w, f) = Config.fpSingleOther op a b c)

/-- `sround` of an operation for each of the four slices, and the flags of the slices. -/
def SingleSlices (cfg : Config) (op : SingleOp) (a b c : Quad) (inputs : Nat → List Word) (r : Nat → ℚ)
    (q flags : Quad) : Prop :=
  ∃ f : Nat → SingleFlags, flags = singleFlagQuad f ∧
    ∀ k < 4, SingleDelivers cfg op (word a k) (word b k) (word c k) (inputs k) (r k) (word q k) (f k)

/-- `y = 1/x` in the sense of R443 (c): the largest single in magnitude with `x * y < 1.0`. -/
def ReciprocalIs (x y : Word) : Prop := singleValue x * singleValue y < 1 ∧ 1 ≤ singleValue x * singleValue (y + 1#32)

/-- What R443 states of the result `y2` of its sequence for `x`: the largest single for a zero exponent, 0 for a
magnitude of 2^126 or more, otherwise 1/x or the single before it. -/
def ReciprocalResult (x y2 : Word) : Prop :=
  (sExp x = 0 → y2 = 0x7FFFFFFF#32) ∧ (2 ^ 126 ≤ |singleValue x| → y2 = 0#32) ∧
  (sExp x ≠ 0 → |singleValue x| < 2 ^ 126 → ∃ y, (y2 = y ∨ y2 + 1#32 = y) ∧ ReciprocalIs x y)

/-- `y = 1/sqrt(|x|)` in the sense of R444: the largest single of sign 0 with `|x| * y^2 < 1.0`. -/
def RootIs (x y : Word) : Prop :=
  y.getLsbD 31 = false ∧ |singleValue x| * singleValue y ^ 2 < 1 ∧ 1 ≤ |singleValue x| * singleValue (y + 1#32) ^ 2

/-- What R444 states of the result `y2` of its sequence for `x`: for a zero exponent the largest single or, where
the fraction is above 0x000FF53C, at least 0x7FC00000; otherwise 1/sqrt(|x|) or a single next to it. -/
def RootResult (x y2 : Word) : Prop :=
  (sExp x = 0 → sFrac x ≤ 0x000FF53C → y2 = 0x7FFFFFFF#32) ∧
  (sExp x = 0 → 0x7FC00000 ≤ y2.toNat ∧ y2.toNat ≤ 0x7FFFFFFF) ∧
  (sExp x ≠ 0 → ∃ y, (y2 = y ∨ y2 + 1#32 = y ∨ y2 = y + 1#32) ∧ RootIs x y)

/-- `n` is the non-negative number `x` truncated to an integer. -/
def TruncatesTo (x : ℚ) (n : ℕ) : Prop := (n : ℚ) ≤ x ∧ x < n + 1

/- Double precision over rational numbers (R397, R401, R404). -/

/-- The magnitude of a double that is no NaN and no infinity (R397). -/
def doubleMagnitude (d : Dword) : ℚ :=
  if dExp d = 0 then dFrac d / 2 ^ 1074 else (2 ^ 52 + dFrac d) * 2 ^ ((dExp d : ℤ) - 1075)
/-- Its value (R397). -/
def doubleValue (d : Dword) : ℚ := withSign (dSign d) (doubleMagnitude d)
/-- No NaN and no infinity (R397). -/
def dFinite (d : Dword) : Prop := dExp d ≠ 2047

/-- The magnitude of an IEEE single that is no NaN and no infinity (R402). -/
def ieeeMagnitude (w : Word) : ℚ :=
  if sExp w = 0 then sFrac w / 2 ^ 149 else (2 ^ 23 + sFrac w) * 2 ^ ((sExp w : ℤ) - 150)

/-- `n` is the non-negative number `x` rounded to an integer by the mode, `neg` being the sign of the number whose
magnitude `x` is (R401). -/
def RoundsTo (mode : BitVec 2) (neg : Bool) (x : ℚ) (n : ℕ) : Prop :=
  if mode = 0b00#2 then |x - n| ≤ 1 / 2 ∧ (|x - n| = 1 / 2 → n % 2 = 0)
  else if mode = 0b01#2 ∨ mode = 0b10#2 ∧ neg = true ∨ mode = 0b11#2 ∧ neg = false then (n : ℚ) ≤ x ∧ x < n + 1
  else (n : ℚ) - 1 < x ∧ x ≤ n

/-- The largest finite magnitude of a format. -/
def Format.largest (fmt : Format) : ℚ :=
  (2 ^ (fmt.frac + 1) - 1) * 2 ^ ((fmt.expMax : ℤ) - 2 - fmt.least)

/-- `dround` for a magnitude `x > 0`: the magnitude delivered, none for an infinity, and the flags (R403, R404).
`x` is rounded to a multiple of `2^u`, `u` being such that the multiple has `frac + 1` significant bits, or the
exponent of the smallest denormal. -/
def MagnitudeRounds (fmt : Format) (mode : BitVec 2) (neg : Bool) (x : ℚ) (m : Option ℚ) (f : DoubleFlags) : Prop :=
  ∃ (u : ℤ) (n : ℕ), -(fmt.least : ℤ) ≤ u ∧ x < (2 : ℚ) ^ (u + fmt.frac + 1) ∧
    (u = -(fmt.least : ℤ) ∨ (2 : ℚ) ^ (u + fmt.frac) ≤ x) ∧ RoundsTo mode neg (x / (2 : ℚ) ^ u) n ∧
    if fmt.largest < n * (2 : ℚ) ^ u then
      m = (if overflowsToInfinity mode neg then none else some fmt.largest) ∧
        f = ⟨true, false, true, false, false, false⟩
    else m = some (n * (2 : ℚ) ^ u) ∧
      f = ⟨false, decide (n * (2 : ℚ) ^ u ≠ x ∧ x < (2 : ℚ) ^ ((fmt.frac : ℤ) - fmt.least)),
        decide (n * (2 : ℚ) ^ u ≠ x), false, false, false⟩

/-- A double with the sign `neg` and the magnitude `m`, an infinity where there is none. -/
def DoubleIs (d : Dword) (neg : Bool) (m : Option ℚ) : Prop :=
  match m with
  | none => d = infinity neg
  | some x => dSign d = neg ∧ dFinite d ∧ doubleMagnitude d = x

/-- An IEEE single with the sign `neg` and the magnitude `m`, an infinity where there is none. -/
def SingleIs (w : Word) (neg : Bool) (m : Option ℚ) : Prop :=
  match m with
  | none => w = BitVec.ofBool neg ++ 0x7F800000#31
  | some x => w.getLsbD 31 = neg ∧ sExp w ≠ 255 ∧ ieeeMagnitude w = x

/-- `dround(mode, r)` delivers the double `d` and the flags `f`; a zero has the sign `zeroNeg` (R404). -/
def DoubleRounds (mode : BitVec 2) (zeroNeg : Bool) (r : ℚ) (d : Dword) (f : DoubleFlags) : Prop :=
  if r = 0 then d = zero zeroNeg ∧ f = DoubleFlags.none
  else ∃ m, MagnitudeRounds doubleFormat mode (r < 0) |r| m f ∧ DoubleIs d (r < 0) m

/-- The operands of an operation, their denormals made zero where the configuration says so (R400), are finite. -/
def FiniteInputs (inputs : List Dword) : Prop := ∀ d ∈ inputs, dFinite d

/-- The exact result of an operation on finite doubles, a product exact and unbounded (R404). -/
def doubleExact (op : DoubleOp) (a b c : Dword) : ℚ :=
  match op with
  | .add => doubleValue a + doubleValue b
  | .sub => doubleValue a - doubleValue b
  | .mul => doubleValue a * doubleValue b
  | .madd => doubleValue a * doubleValue b + doubleValue c
  | .msub => doubleValue a * doubleValue b - doubleValue c

/-- The sign of a zero result: the common sign of what is added, or the sign of the product; for terms of opposite
sign plus, but minus in mode 11 (R404). -/
def doubleZeroSign (op : DoubleOp) (mode : BitVec 2) (a b c : Dword) : Bool :=
  match op with
  | .add => if dSign a = dSign b then dSign a else mode == 0b11#2
  | .sub => if dSign a = !dSign b then dSign a else mode == 0b11#2
  | .mul => dSign a != dSign b
  | .madd => if (dSign a != dSign b) = dSign c then dSign c else mode == 0b11#2
  | .msub => if (dSign a != dSign b) = !dSign c then !dSign c else mode == 0b11#2

/-- The magnitude of a double that is no NaN, an infinity above all others (R397). -/
def doubleSize (d : Dword) : WithTop ℚ := if dExp d = 2047 then ⊤ else ((doubleMagnitude d : ℚ) : WithTop ℚ)

/-- The value of a double that is no NaN, the infinities below and above all others (R397). -/
def doubleOrder (d : Dword) : WithBot (WithTop ℚ) :=
  if dExp d = 2047 then (if dSign d then ⊥ else ((⊤ : WithTop ℚ) : WithBot (WithTop ℚ)))
  else (((doubleValue d : ℚ) : WithTop ℚ) : WithBot (WithTop ℚ))

/-- A double compare of the two slices: false and INV where an operand is a NaN, otherwise what `cmp` says
(R432 to R435). -/
def ComparesDoubles (i : Instr) (s : State) (rt ra rb : Reg) (cmp : Dword → Dword → Prop) : Prop :=
  WritesFlags i s rt fun q flags => ∃ f : Nat → DoubleFlags, flags = doubleFlagQuad f ∧ ∀ k < 2,
    let a := dword (s.reg ra) k
    let b := dword (s.reg rb) k
    ((dNaN a ∨ dNaN b) → dword q k = 0#64 ∧ f k = ⟨false, false, false, true, false, false⟩) ∧
    (¬(dNaN a ∨ dNaN b) → f k = DoubleFlags.none ∧
      (cmp a b → dword q k = BitVec.allOnes 64) ∧ (¬cmp a b → dword q k = 0#64))

/-- The two slices of a double-precision instruction: for each its value and its flags (R405). -/
def DoubleSlices (i : Instr) (s : State) (rt : Reg) (P : Nat → Dword → DoubleFlags → Prop) : Prop :=
  WritesFlags i s rt fun q flags => ∃ f : Nat → DoubleFlags, flags = doubleFlagQuad f ∧
    ∀ k < 2, P k (dword q k) (f k)

/- The end of a run, and the invariant. -/

/-- A run has ended normally: the SPU is stopped by `stop` or `stopd` (spec/60_exceptions.md R516). -/
def State.endedNormally (s : State) : Bool :=
  match s.run with
  | .stopped (.signal _) => true
  | .stopped .stopd => true
  | _ => false

/-- What is true of an implemented channel: the count is the data that wait, or the room that is left
(spec/48_control_channel.md R479); a 32-bit channel holds its data in the preferred slot. -/
def Channel.ok (c : Channel) : Prop :=
  (match c.dir with
    | .read => c.count = c.queue.length ∧ c.count ≤ c.capacity
    | .write => c.count + c.queue.length = c.capacity) ∧
  ∀ d ∈ c.queue, c.width.narrow d = d

/-- The invariant of the machine. -/
structure State.Inv (s : State) : Prop where
  /-- Local storage is in its canonical form. -/
  memory : s.ls.wf = true
  /-- Nothing stands beyond the real local storage (spec/20_memory.md R51). -/
  inside : ∀ c ∈ s.ls, c.1 < s.cfg.lsRealSize
  /-- LSLR is `2^n - 1` with `4 <= n <= 32`, the effective size at most the real one (spec/10_state.md R35). -/
  lslr : ∃ n, 4 ≤ n ∧ n ≤ 32 ∧ s.lslr.toNat = 2 ^ n - 1 ∧ 2 ^ n ≤ s.cfg.lsRealSize
  /-- `pc & 3 = 0` (R24). -/
  pcAligned : s.pc &&& 3#32 = 0#32
  /-- `pc & ~LSLR = 0` (R24). -/
  pcInside : s.pc &&& ~~~s.lslr = 0#32
  /-- Unused bits of FPSCR are 0 (R30). -/
  fpscr : s.fpscr &&& ~~~fpscrMask = 0#128
  /-- Only a running SPU waits for a channel (spec/48_control_channel.md R479). -/
  wait : s.wait ≠ none → s.run = .running
  /-- Every implemented channel is in order. -/
  channels : ∀ (ca : BitVec 7) (c : Channel), s.chan[ca.toNat] = some c → c.ok

end Sys2Proof.Machine
end

