-- ==== Sys2Proof/Certificates/Slice0/Obligations.lean ====
section
/-!
DEFINITION. The statements for the provers. Where a statement rests on a choice the spec or the model made, its
docstring names the log entry.
-/

open Sys2Proof Sys2Proof.Machine

/- Encoding and decoding. The opcode values and field positions are the spec's, from general knowledge: PRESUMED
(log entry 1). -/

/-- Decode and encode agree for every instruction, every operand at every value (log entries 1, 2). -/
def Obligations.DecodeOfEncodeIsTheInstruction : Prop :=
  ∀ i : Instr, decode (encode i) = .ok i

/-- No word matches two rows of the opcode table. -/
def Obligations.NoWordMatchesTwoRows : Prop :=
  ∀ (w : Word) (i j : Nat) (r q : Row), rows[i]? = some r → rows[j]? = some q →
    r.matches w = true → q.matches w = true → i = j

/-- Words of nine layouts, written out from the spec's encodings, decode to the instructions they stand for. -/
def Obligations.WrittenOutWordsDecode : Prop :=
  decode 0x18014203#32 = .ok (.a 3 4 5) ∧ decode 0x1CFFC081#32 = .ok (.ai 1 1 0x3FF#10) ∧
  decode 0x80614206#32 = .ok (.selb 3 4 5 6) ∧ decode 0x327FFF00#32 = .ok (.br 0xFFFE#16) ∧
  decode 0x35440000#32 = .ok (.iret 0 false true) ∧ decode 0x76A6C203#32 = .ok (.csflt 3 4 155#8) ∧
  decode 0x00500000#32 = .ok (.sync true) ∧ decode 0x35800288#32 = .ok (.hbr 0 8 5 false) ∧
  decode 0x21A00705#32 = .ok (.wrch 14 5)

/- The machine. -/

/-- A step runs the decoded instruction. In a quiet state whose fetch has one value, the step is `exec` of the
instruction that the four bytes supplied at pc decode to; with devices, it is that in the state their acts leave. The
second clause states the model's own arrangement of a step, early acts, boundary, late acts, then the fetch, with a
late start before the boundary (log entry 33), and the interrupt sampled at that boundary (log entry 10). -/
def Obligations.StepRunsTheDecodedInstruction : Prop :=
  (∀ (s : State) (i : Instr) (b0 b1 b2 b3 : Byte), s.Quiet → fetchOlder s.pc.toNat s.fetchHist = [] →
    s.ls.supplied s.pc.toNat = some b0 → s.ls.supplied (s.pc.toNat + 1) = some b1 →
    s.ls.supplied (s.pc.toNat + 2) = some b2 → s.ls.supplied (s.pc.toNat + 3) = some b3 →
    decode (wordOfBytes b0 b1 b2 b3) = .ok i → step s = exec i s) ∧
  (∀ (s t u : State) (w : Word) (i : Instr), s.dropTurn.applyActs s.turn.early = .ok t → t.interruptDue = false →
    t.applyActs s.turn.late = .ok u → u.run = .running → u.wait = none → u.fetch.1 = some w → decode w = .ok i →
    step s = exec i u.fetch.2)

/-- A word that matches no row of the opcode table, and an optional instruction where the configuration lacks them,
is the event IllegalInstruction: the model's fault (log entry 3). So is, under a name of its own, the fetch of a word
of which nothing has supplied a byte, which hardware would execute as an arbitrary word (log entry 27). -/
def Obligations.UnassignedWordsAreIllegal : Prop :=
  (∀ (s : State) (w : Word) (e : DecodeError), s.Quiet → fetchOlder s.pc.toNat s.fetchHist = [] →
    s.ls.wordAt s.pc.toNat = some w → decode w = .error e → step s = .fault (.illegalInstruction s.pc w)) ∧
  (∀ (s : State) (j : Nat), s.Quiet → fetchOlder s.pc.toNat s.fetchHist = [] → j < 4 →
    s.ls.supplied (s.pc.toNat + j) = none → step s = .fault (.unsuppliedWord s.pc)) ∧
  (∀ (s : State) (rt ra rb : Reg) (i7 : BitVec 7), s.cfg.hasDpCompare = false →
    ∀ i ∈ [Instr.dfceq rt ra rb, Instr.dfcmeq rt ra rb, Instr.dfcgt rt ra rb, Instr.dfcmgt rt ra rb,
      Instr.dftsv rt ra i7], exec i s = .fault (.illegalInstruction s.pc (encode i)))

/-- Every step keeps the invariant, whatever the devices do. -/
def Obligations.StepKeepsTheInvariant : Prop :=
  ∀ s t : State, s.Inv → step s = .next t → t.Inv

/-- The start state has the invariant. -/
def Obligations.ResetHasTheInvariant : Prop := State.reset.Inv

/-- The start state: the SPU runs, nothing is pending, interrupts are disabled; and the values the model chose where
the spec states none (log entries 25 to 30, 37). -/
def Obligations.ResetState : Prop :=
  State.reset.run = .running ∧ State.reset.ie = false ∧ State.reset.srr0Pending = none ∧
  State.reset.dataHist = [] ∧ State.reset.fetchHist = [] ∧ State.reset.wait = none ∧
  (∀ r, State.reset.reg r = 0#128) ∧ State.reset.pc = 0#32 ∧ State.reset.fpscr = 0#128 ∧
  State.reset.srr0 = 0#32 ∧ State.reset.lslr = 0x0003FFFF#32 ∧ (∀ a, State.reset.ls.supplied a = none) ∧
  (∀ sa : BitVec 7, State.reset.spr[sa.toNat] = none) ∧ (∀ ca : BitVec 7, State.reset.chan[ca.toNat] = none) ∧
  State.reset.extCond = false

/-- A stopped SPU that no device touches executes nothing. -/
def Obligations.StoppedExecutesNothing : Prop :=
  ∀ (s : State) (ev : StopEvent), s.run = .stopped ev → s.devices = [] → step s = .next s

/-- Interrupt entry: SRR0 receives pc, interrupts are disabled, execution goes to address 0, nothing else changes.
Taken while a value for SRR0 is pending, it leaves some value pending, so that SRR0 is unspecified even after the
channel synchronisation (log entry 9). -/
def Obligations.InterruptEntrySavesPc : Prop :=
  ∀ s : State,
    s.takeInterrupt.srr0 = s.pc ∧ s.takeInterrupt.ie = false ∧ s.takeInterrupt.pc = 0#32 ∧
    SameRegs s s.takeInterrupt ∧ SameBytes s s.takeInterrupt ∧ s.takeInterrupt.fpscr = s.fpscr ∧
    SameEnv s s.takeInterrupt ∧ SameHist s s.takeInterrupt ∧ s.takeInterrupt.spr = s.spr ∧
    s.takeInterrupt.chan = s.chan ∧ s.takeInterrupt.run = s.run ∧ s.takeInterrupt.wait = s.wait ∧
    (s.srr0Pending = none → s.takeInterrupt.srr0Pending = none ∧ s.takeInterrupt.free = s.free) ∧
    (s.srr0Pending ≠ none → s.takeInterrupt.srr0Pending ≠ none)

/-- At every boundary at which IE is enabled and the external condition true the step is the interrupt entry; at a
boundary where it is not so, no instruction is turned away: the step is the instruction (log entry 10). With devices
acting: the boundary stands within what they do in the step, behind their early acts, and no start event is behind
it; where the interrupt is due there the step is the entry; an SPU that runs at the end of their acts ran at the
boundary too and waited there for what it waits for at the end, so that the step executes no instruction unsampled.
That the boundary moves behind a late start is the model's choice (log entry 33). -/
def Obligations.InterruptIsSampledAtEveryBoundary : Prop :=
  (∀ s : State, s.devices = [] → s.run = .running → s.wait = none →
    ((s.ie = true ∧ s.extCond = true) → step s = .next s.takeInterrupt) ∧
    (¬(s.ie = true ∧ s.extCond = true) → step s = s.runInstruction)) ∧
  (∀ (s : State) (d : DeviceTurn) (ds : List DeviceTurn), s.devices = d :: ds →
    d.early <+: s.turn.early ∧ s.turn.early ++ s.turn.late = d.early ++ d.late ∧ .start ∉ s.turn.late) ∧
  (∀ s t u : State, s.dropTurn.applyActs s.turn.early = .ok t → t.run = .running → t.wait = none → t.ie = true →
    t.extCond = true → t.takeInterrupt.applyActs s.turn.late = .ok u → step s = .next u) ∧
  (∀ s t u : State, s.dropTurn.applyActs s.turn.early = .ok t → t.applyActs s.turn.late = .ok u → u.run = .running →
    t.run = .running ∧ u.wait = t.wait)

/-- The round trip: `iret` with E right after the entry resumes at the interrupted instruction with interrupts
enabled, every register, byte and flag as it was; SRR0 keeps the address (log entry 8). -/
def Obligations.IretResumesTheInterruptedProgram : Prop :=
  ∀ (s : State) (ra : Reg), s.srr0Pending = none → s.ie = true → s.pc &&& 3#32 = 0#32 →
    s.pc &&& ~~~s.lslr = 0#32 →
    ∃ t, exec (.iret ra false true) s.takeInterrupt = .next t ∧ t.pc = s.pc ∧ t.ie = true ∧ t.srr0 = s.pc ∧
      SameRegs s t ∧ SameBytes s t ∧ t.fpscr = s.fpscr ∧ SameEnv s t ∧ SameHist s t ∧ t.run = s.run

/- All instructions. -/

/-- Every instruction but a branch, a halt, `rdch` and `wrch` goes on to `(pc + 4) & LSLR`: the spec's reading, which
the model follows (log entry 35). -/
def Obligations.OtherInstructionsGoOnInSequence : Prop :=
  ∀ (i : Instr) (s t : State), i.mayLeaveSequence = false → exec i s = .next t → t.pc = (s.pc + 4#32) &&& s.lslr

/-- What no instruction changes, and what each may change: a register that is not its target reads as before, a byte
of local storage changes only by a store, LSLR, the external condition and the configuration never; IE is changed by
an indirect branch or `iret` with one feature bit set and by nothing else an instruction does. -/
def Obligations.FrameOfEveryInstruction : Prop :=
  ∀ (i : Instr) (s t : State), exec i s = .next t →
    (∀ r, i.target ≠ some r → t.reg r = s.reg r) ∧ (i.stores = false → SameBytes s t) ∧ SameEnv s t ∧
    (t.ie ≠ s.ie → ∃ d e, i.features = some (d, e) ∧ d ≠ e ∧ t.ie = e)

/-- Flags are sticky, and each instruction sets those of the tables alone: but for `fscrwr`, FPSCR afterwards is
FPSCR before with flags added that the instruction may set; the control bits stay. A conversion to integer may add
single-precision flags where its scale is out of range, which is the spec's decision (log entry 19). -/
def Obligations.FlagsAreStickyAndOfTheTables : Prop :=
  ∀ (i : Instr) (s t : State), (∀ ra rt, i ≠ .fscrwr ra rt) → exec i s = .next t →
    ∃ flags, t.fpscr = s.fpscr ||| flags ∧ flags &&& ~~~i.flagMask = 0#128

/- Loads, stores, generate controls. -/

/-- Loads, of storage that no unsynchronised external write touches. -/
def Obligations.LoadsReadTheQuadword : Prop :=
  ∀ (s : State) (rt ra rb : Reg) (i10 : BitVec 10) (i16 : BitVec 16),
    Loads (.lqd rt ra i10) s rt ((i10 ++ 0#4).signExtend 32 + pref (s.reg ra)) ∧
    Loads (.lqx rt ra rb) s rt (pref (s.reg ra) + pref (s.reg rb)) ∧
    Loads (.lqa rt i16) s rt ((i16 ++ 0#2).signExtend 32) ∧
    Loads (.lqr rt i16) s rt ((i16 ++ 0#2).signExtend 32 + s.pc)

/-- Loads complete in every state and return one of the values the spec's mechanism allows (log entry 31); a load
after a store to the same effective address returns the value stored, whatever devices wrote before the store, and
without any synchronisation. -/
def Obligations.LoadsReturnAllowedValuesAndOwnStores : Prop :=
  (∀ (s : State) (rt ra rb : Reg) (i10 : BitVec 10) (i16 : BitVec 16),
    LoadsSome (.lqd rt ra i10) s rt (eaD i10 (s.reg ra)) ∧ LoadsSome (.lqx rt ra rb) s rt (eaX (s.reg ra) (s.reg rb)) ∧
    LoadsSome (.lqa rt i16) s rt (eaA i16) ∧ LoadsSome (.lqr rt i16) s rt (eaR i16 s.pc)) ∧
  (∀ (s t : State) (rt rt' ra rb : Reg), exec (.stqx rt ra rb) s = .next t →
    ∃ u, exec (.lqx rt' ra rb) t = .next u ∧ u.reg rt' = s.reg rt)

/-- Stores: the 16 bytes at the local storage address, and no other byte. -/
def Obligations.StoresWriteTheQuadword : Prop :=
  ∀ (s : State) (rt ra rb : Reg) (i10 : BitVec 10) (i16 : BitVec 16),
    Stores (.stqd rt ra i10) s rt (lsa s.lslr (eaD i10 (s.reg ra))).toNat ∧
    Stores (.stqx rt ra rb) s rt (lsa s.lslr (eaX (s.reg ra) (s.reg rb))).toNat ∧
    Stores (.stqa rt i16) s rt (lsa s.lslr (eaA i16)).toNat ∧
    Stores (.stqr rt i16) s rt (lsa s.lslr (eaR i16 s.pc)).toNat

/-- What a device writes into local storage may be unseen by a load until `dsync`; after it a load returns the bytes
written. After a store into the instruction stream the fetch may return the old word or the new one until `sync`;
`dsync` is not enough; after `sync` it returns the word stored (log entries 31, 32). -/
def Obligations.SynchronisationShowsEarlierWrites : Prop :=
  (∀ (s t : State) (a : Nat) (v : Quad) (bytes : BitVec 16), s.applyAct (.write a v bytes) = .ok t →
    (∀ q ∈ s.loadCandidates a, q ∈ t.loadCandidates a) ∧
    ∃ u, exec .dsync t = .next u ∧ ∃ q, u.loadCandidates a = [q] ∧
      ∀ j < 16, byte q j = if bytes.getLsbD (15 - j) then byte v j else s.ls.byteAt (a + j)) ∧
  (∀ (s t : State) (rt ra rb : Reg) (c : Bool) (a : Nat), a % 4 = 0 → exec (.stqx rt ra rb) s = .next t →
    (∀ w ∈ s.fetchCandidates a, w ∈ t.fetchCandidates a) ∧ t.ls.wordAt a ∈ t.fetchCandidates a ∧
    (∀ j < 4, a = (lsa s.lslr (eaX (s.reg ra) (s.reg rb))).toNat + 4 * j → t.ls.wordAt a = some (word (s.reg rt) j)) ∧
    (∃ u, exec .dsync t = .next u ∧ u.fetchCandidates a = t.fetchCandidates a) ∧
    (∃ u, exec (.sync c) t = .next u ∧ u.fetchCandidates a = [t.ls.wordAt a]))

/-- Generate controls: the bytes 0x10 to 0x1F, and at the place the low address bits name the bytes of the scalar. -/
def Obligations.GenerateControlsFormTheMask : Prop :=
  ∀ (s : State) (rt ra rb : Reg) (i7 : BitVec 7),
    (let d := (pref (s.reg ra) + i7.signExtend 32).toNat
     Writes (.cbd rt ra i7) s rt (fun q => ∀ j < 16, (byte q j).toNat = if j = d % 16 then 3 else 0x10 + j) ∧
     Writes (.chd rt ra i7) s rt (fun q => ∀ j < 16, (byte q j).toNat =
       if j / 2 = d % 16 / 2 then 2 + j % 2 else 0x10 + j) ∧
     Writes (.cwd rt ra i7) s rt (fun q => ∀ j < 16, (byte q j).toNat =
       if j / 4 = d % 16 / 4 then j % 4 else 0x10 + j) ∧
     Writes (.cdd rt ra i7) s rt (fun q => ∀ j < 16, (byte q j).toNat =
       if j / 8 = d % 16 / 8 then j % 8 else 0x10 + j)) ∧
    (let x := (pref (s.reg ra) + pref (s.reg rb)).toNat
     Writes (.cbx rt ra rb) s rt (fun q => ∀ j < 16, (byte q j).toNat = if j = x % 16 then 3 else 0x10 + j) ∧
     Writes (.chx rt ra rb) s rt (fun q => ∀ j < 16, (byte q j).toNat =
       if j / 2 = x % 16 / 2 then 2 + j % 2 else 0x10 + j) ∧
     Writes (.cwx rt ra rb) s rt (fun q => ∀ j < 16, (byte q j).toNat =
       if j / 4 = x % 16 / 4 then j % 4 else 0x10 + j) ∧
     Writes (.cdx rt ra rb) s rt (fun q => ∀ j < 16, (byte q j).toNat =
       if j / 8 = x % 16 / 8 then j % 8 else 0x10 + j))

/- Constant formation. -/

/-- The six constant-formation instructions. -/
def Obligations.ConstantsAreFormed : Prop :=
  ∀ (s : State) (rt : Reg) (i16 : BitVec 16) (i18 : BitVec 18),
    Writes (.ilh rt i16) s rt (fun q => ∀ j < 8, hw q j = i16) ∧
    Writes (.ilhu rt i16) s rt (fun q => ∀ j < 4, (word q j).toNat = i16.toNat * 2 ^ 16) ∧
    Writes (.il rt i16) s rt (fun q => ∀ j < 4, (word q j).toInt = i16.toInt) ∧
    Writes (.ila rt i18) s rt (fun q => ∀ j < 4, (word q j).toNat = i18.toNat) ∧
    Writes (.iohl rt i16) s rt (fun q => ∀ j < 4, word q j = word (s.reg rt) j ||| i16.setWidth 32) ∧
    Writes (.fsmbi rt i16) s rt (fun q => ∀ j < 16, byte q j = if i16.getLsbD (15 - j) then 0xFF#8 else 0x00#8)

/- Integer instructions. -/

/-- Additions and subtractions wrap, slot by slot; carry and borrow are words of value 1 or 0. -/
def Obligations.AddAndSubtractWrap : Prop :=
  ∀ (s : State) (rt ra rb : Reg) (i10 : BitVec 10),
    Writes (.ah rt ra rb) s rt (fun q => ∀ j < 8,
      (hw q j).toInt = ((hw (s.reg ra) j).toInt + (hw (s.reg rb) j).toInt).bmod (2 ^ 16)) ∧
    Writes (.ahi rt ra i10) s rt (fun q => ∀ j < 8,
      (hw q j).toInt = ((hw (s.reg ra) j).toInt + i10.toInt).bmod (2 ^ 16)) ∧
    Writes (.a rt ra rb) s rt (fun q => ∀ j < 4,
      (word q j).toInt = ((word (s.reg ra) j).toInt + (word (s.reg rb) j).toInt).bmod (2 ^ 32)) ∧
    Writes (.ai rt ra i10) s rt (fun q => ∀ j < 4,
      (word q j).toInt = ((word (s.reg ra) j).toInt + i10.toInt).bmod (2 ^ 32)) ∧
    Writes (.sfh rt ra rb) s rt (fun q => ∀ j < 8,
      (hw q j).toInt = ((hw (s.reg rb) j).toInt - (hw (s.reg ra) j).toInt).bmod (2 ^ 16)) ∧
    Writes (.sfhi rt ra i10) s rt (fun q => ∀ j < 8,
      (hw q j).toInt = (i10.toInt - (hw (s.reg ra) j).toInt).bmod (2 ^ 16)) ∧
    Writes (.sf rt ra rb) s rt (fun q => ∀ j < 4,
      (word q j).toInt = ((word (s.reg rb) j).toInt - (word (s.reg ra) j).toInt).bmod (2 ^ 32)) ∧
    Writes (.sfi rt ra i10) s rt (fun q => ∀ j < 4,
      (word q j).toInt = (i10.toInt - (word (s.reg ra) j).toInt).bmod (2 ^ 32)) ∧
    Writes (.cg rt ra rb) s rt (fun q => ∀ j < 4,
      (word q j).toNat = ((word (s.reg ra) j).toNat + (word (s.reg rb) j).toNat) / 2 ^ 32) ∧
    Writes (.bg rt ra rb) s rt (fun q => ∀ j < 4,
      (word q j).toNat = if (word (s.reg rb) j).toNat < (word (s.reg ra) j).toNat then 0 else 1)

/-- The extended forms take their carry or borrow from the least significant bit of the same word of RT alone: that
the other bits are ignored is the spec's decision (log entry 24). -/
def Obligations.ExtendedArithmeticUsesTheLowBit : Prop :=
  ∀ (s : State) (rt ra rb : Reg),
    let a := fun j => (word (s.reg ra) j).toNat
    let b := fun j => (word (s.reg rb) j).toNat
    let c := fun j => (word (s.reg rt) j).toNat % 2
    Writes (.addx rt ra rb) s rt (fun q => ∀ j < 4, (word q j).toNat = (a j + b j + c j) % 2 ^ 32) ∧
    Writes (.cgx rt ra rb) s rt (fun q => ∀ j < 4, (word q j).toNat = (a j + b j + c j) / 2 ^ 32) ∧
    Writes (.sfx rt ra rb) s rt (fun q => ∀ j < 4,
      ((word q j).toNat : ℤ) = ((b j : ℤ) - a j - (1 - c j)) % 2 ^ 32) ∧
    Writes (.bgx rt ra rb) s rt (fun q => ∀ j < 4,
      (word q j).toNat = if (b j : ℤ) - a j - (1 - c j) < 0 then 0 else 1)

/-- Multiplies: the exact product of two halfwords, signed or unsigned, with the additions and shifts of the forms. -/
def Obligations.MultipliesAreExact : Prop :=
  ∀ (s : State) (rt ra rb rc : Reg) (i10 : BitVec 10),
    let a := fun j => hw (s.reg ra) j
    let b := fun j => hw (s.reg rb) j
    Writes (.mpy rt ra rb) s rt (fun q => ∀ j < 4,
      (word q j).toInt = (a (2 * j + 1)).toInt * (b (2 * j + 1)).toInt) ∧
    Writes (.mpyu rt ra rb) s rt (fun q => ∀ j < 4,
      (word q j).toNat = (a (2 * j + 1)).toNat * (b (2 * j + 1)).toNat) ∧
    Writes (.mpyi rt ra i10) s rt (fun q => ∀ j < 4, (word q j).toInt = (a (2 * j + 1)).toInt * i10.toInt) ∧
    Writes (.mpyui rt ra i10) s rt (fun q => ∀ j < 4,
      (word q j).toNat = (a (2 * j + 1)).toNat * (i10.signExtend 16).toNat) ∧
    Writes (.mpya rt ra rb rc) s rt (fun q => ∀ j < 4, (word q j).toInt =
      ((a (2 * j + 1)).toInt * (b (2 * j + 1)).toInt + (word (s.reg rc) j).toInt).bmod (2 ^ 32)) ∧
    Writes (.mpyh rt ra rb) s rt (fun q => ∀ j < 4,
      (word q j).toNat = (a (2 * j)).toNat * (b (2 * j + 1)).toNat % 2 ^ 16 * 2 ^ 16) ∧
    Writes (.mpys rt ra rb) s rt (fun q => ∀ j < 4,
      (word q j).toInt = (a (2 * j + 1)).toInt * (b (2 * j + 1)).toInt / 2 ^ 16) ∧
    Writes (.mpyhh rt ra rb) s rt (fun q => ∀ j < 4,
      (word q j).toInt = (a (2 * j)).toInt * (b (2 * j)).toInt) ∧
    Writes (.mpyhha rt ra rb) s rt (fun q => ∀ j < 4, (word q j).toInt =
      ((a (2 * j)).toInt * (b (2 * j)).toInt + (word (s.reg rt) j).toInt).bmod (2 ^ 32)) ∧
    Writes (.mpyhhu rt ra rb) s rt (fun q => ∀ j < 4,
      (word q j).toNat = (a (2 * j)).toNat * (b (2 * j)).toNat) ∧
    Writes (.mpyhhau rt ra rb) s rt (fun q => ∀ j < 4, (word q j).toNat =
      ((a (2 * j)).toNat * (b (2 * j)).toNat + (word (s.reg rt) j).toNat) % 2 ^ 32)

/-- Counts, select masks and gathered bits. -/
def Obligations.CountsMasksAndGathers : Prop :=
  ∀ (s : State) (rt ra : Reg),
    Writes (.clz rt ra) s rt (fun q => ∀ j < 4, (word q j).toNat ≤ 32 ∧
      (∀ k < (word q j).toNat, (word (s.reg ra) j).getLsbD (31 - k) = false) ∧
      ((word q j).toNat < 32 → (word (s.reg ra) j).getLsbD (31 - (word q j).toNat) = true)) ∧
    Writes (.cntb rt ra) s rt (fun q => ∀ j < 16,
      (byte q j).toNat = ((List.range 8).filter fun b => (byte (s.reg ra) j).getLsbD b).length) ∧
    Writes (.fsmb rt ra) s rt (fun q => ∀ j < 16,
      byte q j = if (pref (s.reg ra)).getLsbD (15 - j) then 0xFF#8 else 0x00#8) ∧
    Writes (.fsmh rt ra) s rt (fun q => ∀ j < 8,
      hw q j = if (pref (s.reg ra)).getLsbD (7 - j) then 0xFFFF#16 else 0x0000#16) ∧
    Writes (.fsm rt ra) s rt (fun q => ∀ j < 4,
      word q j = if (pref (s.reg ra)).getLsbD (3 - j) then 0xFFFFFFFF#32 else 0x00000000#32) ∧
    Writes (.gbb rt ra) s rt (fun q => (∀ j, 0 < j → j < 4 → word q j = 0#32) ∧ (pref q).toNat < 2 ^ 16 ∧
      ∀ k < 16, (pref q).getLsbD (15 - k) = (byte (s.reg ra) k).getLsbD 0) ∧
    Writes (.gbh rt ra) s rt (fun q => (∀ j, 0 < j → j < 4 → word q j = 0#32) ∧ (pref q).toNat < 2 ^ 8 ∧
      ∀ k < 8, (pref q).getLsbD (7 - k) = (hw (s.reg ra) k).getLsbD 0) ∧
    Writes (.gb rt ra) s rt (fun q => (∀ j, 0 < j → j < 4 → word q j = 0#32) ∧ (pref q).toNat < 2 ^ 4 ∧
      ∀ k < 4, (pref q).getLsbD (3 - k) = (word (s.reg ra) k).getLsbD 0)

/-- Byte arithmetic is unsigned and exact; sign extensions keep the value. -/
def Obligations.ByteArithmeticAndSignExtension : Prop :=
  ∀ (s : State) (rt ra rb : Reg),
    let a := fun j => byte (s.reg ra) j
    let b := fun j => byte (s.reg rb) j
    Writes (.avgb rt ra rb) s rt (fun q => ∀ j < 16, (byte q j).toNat = ((a j).toNat + (b j).toNat + 1) / 2) ∧
    Writes (.absdb rt ra rb) s rt (fun q => ∀ j < 16,
      (byte q j).toNat = (((b j).toNat : ℤ) - (a j).toNat).natAbs) ∧
    Writes (.sumb rt ra rb) s rt (fun q => ∀ j < 4,
      (hw q (2 * j)).toNat = (b (4 * j)).toNat + (b (4 * j + 1)).toNat + (b (4 * j + 2)).toNat + (b (4 * j + 3)).toNat ∧
      (hw q (2 * j + 1)).toNat =
        (a (4 * j)).toNat + (a (4 * j + 1)).toNat + (a (4 * j + 2)).toNat + (a (4 * j + 3)).toNat) ∧
    Writes (.xsbh rt ra) s rt (fun q => ∀ j < 8, (hw q j).toInt = (a (2 * j + 1)).toInt) ∧
    Writes (.xshw rt ra) s rt (fun q => ∀ j < 4, (word q j).toInt = (hw (s.reg ra) (2 * j + 1)).toInt) ∧
    Writes (.xswd rt ra) s rt (fun q => ∀ j < 2, (dword q j).toInt = (word (s.reg ra) (2 * j + 1)).toInt)

/- Logical instructions. -/

/-- The bitwise instructions of two registers and of one, select bits, and shuffle bytes. -/
def Obligations.LogicalSelectAndShuffleActOnBits : Prop :=
  ∀ (s : State) (rt ra rb rc : Reg),
    let a := fun n => (s.reg ra).getLsbD n
    let b := fun n => (s.reg rb).getLsbD n
    Writes (.and rt ra rb) s rt (fun q => ∀ n < 128, q.getLsbD n = (a n && b n)) ∧
    Writes (.andc rt ra rb) s rt (fun q => ∀ n < 128, q.getLsbD n = (a n && !b n)) ∧
    Writes (.or rt ra rb) s rt (fun q => ∀ n < 128, q.getLsbD n = (a n || b n)) ∧
    Writes (.orc rt ra rb) s rt (fun q => ∀ n < 128, q.getLsbD n = (a n || !b n)) ∧
    Writes (.xor rt ra rb) s rt (fun q => ∀ n < 128, q.getLsbD n = (a n != b n)) ∧
    Writes (.nand rt ra rb) s rt (fun q => ∀ n < 128, q.getLsbD n = !(a n && b n)) ∧
    Writes (.nor rt ra rb) s rt (fun q => ∀ n < 128, q.getLsbD n = !(a n || b n)) ∧
    Writes (.eqv rt ra rb) s rt (fun q => ∀ n < 128, q.getLsbD n = (a n == b n)) ∧
    Writes (.orx rt ra) s rt (fun q => (∀ j, 0 < j → j < 4 → word q j = 0#32) ∧ ∀ n < 32,
      (pref q).getLsbD n = (a n || a (n + 32) || a (n + 64) || a (n + 96))) ∧
    Writes (.selb rt ra rb rc) s rt (fun q => ∀ n < 128, q.getLsbD n =
      if (s.reg rc).getLsbD n then b n else a n) ∧
    Writes (.shufb rt ra rb rc) s rt (fun q => ∀ j < 16,
      let c := (byte (s.reg rc) j).toNat
      byte q j = if 224 ≤ c then 0x80#8 else if 192 ≤ c then 0xFF#8 else if 128 ≤ c then 0x00#8
        else if c % 32 < 16 then byte (s.reg ra) (c % 32) else byte (s.reg rb) (c % 32 - 16))

/-- The logical immediates: the low byte of I10 in every byte, or I10 sign-extended in every halfword or word. -/
def Obligations.LogicalImmediatesReplicate : Prop :=
  ∀ (s : State) (rt ra : Reg) (i10 : BitVec 10),
    Writes (.andbi rt ra i10) s rt (fun q => ∀ j < 16, byte q j = byte (s.reg ra) j &&& i10.setWidth 8) ∧
    Writes (.andhi rt ra i10) s rt (fun q => ∀ j < 8, hw q j = hw (s.reg ra) j &&& i10.signExtend 16) ∧
    Writes (.andi rt ra i10) s rt (fun q => ∀ j < 4, word q j = word (s.reg ra) j &&& i10.signExtend 32) ∧
    Writes (.orbi rt ra i10) s rt (fun q => ∀ j < 16, byte q j = byte (s.reg ra) j ||| i10.setWidth 8) ∧
    Writes (.orhi rt ra i10) s rt (fun q => ∀ j < 8, hw q j = hw (s.reg ra) j ||| i10.signExtend 16) ∧
    Writes (.ori rt ra i10) s rt (fun q => ∀ j < 4, word q j = word (s.reg ra) j ||| i10.signExtend 32) ∧
    Writes (.xorbi rt ra i10) s rt (fun q => ∀ j < 16, byte q j = byte (s.reg ra) j ^^^ i10.setWidth 8) ∧
    Writes (.xorhi rt ra i10) s rt (fun q => ∀ j < 8, hw q j = hw (s.reg ra) j ^^^ i10.signExtend 16) ∧
    Writes (.xori rt ra i10) s rt (fun q => ∀ j < 4, word q j = word (s.reg ra) j ^^^ i10.signExtend 32)

/- Shifts and rotates. -/

/-- Shifts left: bits that leave on the left are lost, zeros enter on the right. -/
def Obligations.ShiftsLeftMultiply : Prop :=
  ∀ (s : State) (rt ra rb : Reg) (i7 : BitVec 7),
    let c := (pref (s.reg rb)).toNat
    Writes (.shlh rt ra rb) s rt (fun q => ∀ j < 8,
      (hw q j).toNat = (hw (s.reg ra) j).toNat * 2 ^ ((hw (s.reg rb) j).toNat % 32) % 2 ^ 16) ∧
    Writes (.shlhi rt ra i7) s rt (fun q => ∀ j < 8,
      (hw q j).toNat = (hw (s.reg ra) j).toNat * 2 ^ (i7.toNat % 32) % 2 ^ 16) ∧
    Writes (.shl rt ra rb) s rt (fun q => ∀ j < 4,
      (word q j).toNat = (word (s.reg ra) j).toNat * 2 ^ ((word (s.reg rb) j).toNat % 64) % 2 ^ 32) ∧
    Writes (.shli rt ra i7) s rt (fun q => ∀ j < 4,
      (word q j).toNat = (word (s.reg ra) j).toNat * 2 ^ (i7.toNat % 64) % 2 ^ 32) ∧
    Writes (.shlqbi rt ra rb) s rt (fun q => q.toNat = (s.reg ra).toNat * 2 ^ (c % 8) % 2 ^ 128) ∧
    Writes (.shlqbii rt ra i7) s rt (fun q => q.toNat = (s.reg ra).toNat * 2 ^ (i7.toNat % 8) % 2 ^ 128) ∧
    Writes (.shlqby rt ra rb) s rt (fun q => q.toNat = (s.reg ra).toNat * 2 ^ (8 * (c % 32)) % 2 ^ 128) ∧
    Writes (.shlqbyi rt ra i7) s rt (fun q =>
      q.toNat = (s.reg ra).toNat * 2 ^ (8 * (i7.toNat % 32)) % 2 ^ 128) ∧
    Writes (.shlqbybi rt ra rb) s rt (fun q => q.toNat = (s.reg ra).toNat * 2 ^ (8 * (c / 8 % 32)) % 2 ^ 128)

/-- Rotates: what leaves on the left enters on the right. -/
def Obligations.RotatesMoveBitsAround : Prop :=
  ∀ (s : State) (rt ra rb : Reg) (i7 : BitVec 7),
    let c := (pref (s.reg rb)).toNat
    let a := fun n => (s.reg ra).getLsbD n
    Writes (.roth rt ra rb) s rt (fun q => ∀ j < 8, ∀ n < 16,
      (hw q j).getLsbD ((n + (hw (s.reg rb) j).toNat) % 16) = (hw (s.reg ra) j).getLsbD n) ∧
    Writes (.rothi rt ra i7) s rt (fun q => ∀ j < 8, ∀ n < 16,
      (hw q j).getLsbD ((n + i7.toNat) % 16) = (hw (s.reg ra) j).getLsbD n) ∧
    Writes (.rot rt ra rb) s rt (fun q => ∀ j < 4, ∀ n < 32,
      (word q j).getLsbD ((n + (word (s.reg rb) j).toNat) % 32) = (word (s.reg ra) j).getLsbD n) ∧
    Writes (.roti rt ra i7) s rt (fun q => ∀ j < 4, ∀ n < 32,
      (word q j).getLsbD ((n + i7.toNat) % 32) = (word (s.reg ra) j).getLsbD n) ∧
    Writes (.rotqby rt ra rb) s rt (fun q => ∀ n < 128, q.getLsbD ((n + 8 * (c % 16)) % 128) = a n) ∧
    Writes (.rotqbyi rt ra i7) s rt (fun q => ∀ n < 128, q.getLsbD ((n + 8 * (i7.toNat % 16)) % 128) = a n) ∧
    Writes (.rotqbybi rt ra rb) s rt (fun q => ∀ n < 128, q.getLsbD ((n + 8 * (c / 8 % 16)) % 128) = a n) ∧
    Writes (.rotqbi rt ra rb) s rt (fun q => ∀ n < 128, q.getLsbD ((n + c % 8) % 128) = a n) ∧
    Writes (.rotqbii rt ra i7) s rt (fun q => ∀ n < 128, q.getLsbD ((n + i7.toNat % 8) % 128) = a n)

/-- Rotate and mask: a logical right shift by the two's complement of the count. -/
def Obligations.RotateAndMaskShiftsRight : Prop :=
  ∀ (s : State) (rt ra rb : Reg) (i7 : BitVec 7),
    let c := (pref (s.reg rb)).toNat
    let i := i7.toNat
    Writes (.rothm rt ra rb) s rt (fun q => ∀ j < 8,
      (hw q j).toNat = (hw (s.reg ra) j).toNat / 2 ^ ((32 - (hw (s.reg rb) j).toNat % 32) % 32)) ∧
    Writes (.rothmi rt ra i7) s rt (fun q => ∀ j < 8,
      (hw q j).toNat = (hw (s.reg ra) j).toNat / 2 ^ ((32 - i % 32) % 32)) ∧
    Writes (.rotm rt ra rb) s rt (fun q => ∀ j < 4,
      (word q j).toNat = (word (s.reg ra) j).toNat / 2 ^ ((64 - (word (s.reg rb) j).toNat % 64) % 64)) ∧
    Writes (.rotmi rt ra i7) s rt (fun q => ∀ j < 4,
      (word q j).toNat = (word (s.reg ra) j).toNat / 2 ^ ((64 - i % 64) % 64)) ∧
    Writes (.rotqmby rt ra rb) s rt (fun q =>
      q.toNat = (s.reg ra).toNat / 2 ^ (8 * ((32 - c % 32) % 32))) ∧
    Writes (.rotqmbyi rt ra i7) s rt (fun q =>
      q.toNat = (s.reg ra).toNat / 2 ^ (8 * ((32 - i % 32) % 32))) ∧
    Writes (.rotqmbybi rt ra rb) s rt (fun q =>
      q.toNat = (s.reg ra).toNat / 2 ^ (8 * ((32 - c / 8 % 32) % 32))) ∧
    Writes (.rotqmbi rt ra rb) s rt (fun q => q.toNat = (s.reg ra).toNat / 2 ^ ((8 - c % 8) % 8)) ∧
    Writes (.rotqmbii rt ra i7) s rt (fun q => q.toNat = (s.reg ra).toNat / 2 ^ ((8 - i % 8) % 8))

/-- Rotate and mask algebraic: an arithmetic right shift by the two's complement of the count. -/
def Obligations.RotateAndMaskAlgebraicDivides : Prop :=
  ∀ (s : State) (rt ra rb : Reg) (i7 : BitVec 7),
    Writes (.rotmah rt ra rb) s rt (fun q => ∀ j < 8,
      (hw q j).toInt = (hw (s.reg ra) j).toInt / 2 ^ ((32 - (hw (s.reg rb) j).toNat % 32) % 32)) ∧
    Writes (.rotmahi rt ra i7) s rt (fun q => ∀ j < 8,
      (hw q j).toInt = (hw (s.reg ra) j).toInt / 2 ^ ((32 - i7.toNat % 32) % 32)) ∧
    Writes (.rotma rt ra rb) s rt (fun q => ∀ j < 4,
      (word q j).toInt = (word (s.reg ra) j).toInt / 2 ^ ((64 - (word (s.reg rb) j).toNat % 64) % 64)) ∧
    Writes (.rotmai rt ra i7) s rt (fun q => ∀ j < 4,
      (word q j).toInt = (word (s.reg ra) j).toInt / 2 ^ ((64 - i7.toNat % 64) % 64))

/- Compares and halts. -/

/-- Compares for equality and signed order: all ones or all zeros in each slot. -/
def Obligations.SignedComparesSetMasks : Prop :=
  ∀ (s : State) (rt ra rb : Reg) (i10 : BitVec 10),
    Writes (.ceqb rt ra rb) s rt (fun q => ∀ j < 16,
      byte q j = if byte (s.reg ra) j = byte (s.reg rb) j then 0xFF#8 else 0x00#8) ∧
    Writes (.ceqbi rt ra i10) s rt (fun q => ∀ j < 16,
      byte q j = if byte (s.reg ra) j = i10.setWidth 8 then 0xFF#8 else 0x00#8) ∧
    Writes (.ceqh rt ra rb) s rt (fun q => ∀ j < 8,
      hw q j = if hw (s.reg ra) j = hw (s.reg rb) j then 0xFFFF#16 else 0x0000#16) ∧
    Writes (.ceqhi rt ra i10) s rt (fun q => ∀ j < 8,
      hw q j = if (hw (s.reg ra) j).toInt = i10.toInt then 0xFFFF#16 else 0x0000#16) ∧
    Writes (.ceq rt ra rb) s rt (fun q => ∀ j < 4,
      word q j = if word (s.reg ra) j = word (s.reg rb) j then 0xFFFFFFFF#32 else 0x00000000#32) ∧
    Writes (.ceqi rt ra i10) s rt (fun q => ∀ j < 4,
      word q j = if (word (s.reg ra) j).toInt = i10.toInt then 0xFFFFFFFF#32 else 0x00000000#32) ∧
    Writes (.cgtb rt ra rb) s rt (fun q => ∀ j < 16,
      byte q j = if (byte (s.reg rb) j).toInt < (byte (s.reg ra) j).toInt then 0xFF#8 else 0x00#8) ∧
    Writes (.cgtbi rt ra i10) s rt (fun q => ∀ j < 16,
      byte q j = if (i10.setWidth 8).toInt < (byte (s.reg ra) j).toInt then 0xFF#8 else 0x00#8) ∧
    Writes (.cgth rt ra rb) s rt (fun q => ∀ j < 8,
      hw q j = if (hw (s.reg rb) j).toInt < (hw (s.reg ra) j).toInt then 0xFFFF#16 else 0x0000#16) ∧
    Writes (.cgthi rt ra i10) s rt (fun q => ∀ j < 8,
      hw q j = if i10.toInt < (hw (s.reg ra) j).toInt then 0xFFFF#16 else 0x0000#16) ∧
    Writes (.cgt rt ra rb) s rt (fun q => ∀ j < 4,
      word q j = if (word (s.reg rb) j).toInt < (word (s.reg ra) j).toInt then 0xFFFFFFFF#32 else 0x00000000#32) ∧
    Writes (.cgti rt ra i10) s rt (fun q => ∀ j < 4,
      word q j = if i10.toInt < (word (s.reg ra) j).toInt then 0xFFFFFFFF#32 else 0x00000000#32)

/-- Logical compares: unsigned order, the immediate sign-extended first. -/
def Obligations.LogicalComparesSetMasks : Prop :=
  ∀ (s : State) (rt ra rb : Reg) (i10 : BitVec 10),
    Writes (.clgtb rt ra rb) s rt (fun q => ∀ j < 16,
      byte q j = if (byte (s.reg rb) j).toNat < (byte (s.reg ra) j).toNat then 0xFF#8 else 0x00#8) ∧
    Writes (.clgtbi rt ra i10) s rt (fun q => ∀ j < 16,
      byte q j = if i10.toNat % 256 < (byte (s.reg ra) j).toNat then 0xFF#8 else 0x00#8) ∧
    Writes (.clgth rt ra rb) s rt (fun q => ∀ j < 8,
      hw q j = if (hw (s.reg rb) j).toNat < (hw (s.reg ra) j).toNat then 0xFFFF#16 else 0x0000#16) ∧
    Writes (.clgthi rt ra i10) s rt (fun q => ∀ j < 8,
      hw q j = if (i10.signExtend 16).toNat < (hw (s.reg ra) j).toNat then 0xFFFF#16 else 0x0000#16) ∧
    Writes (.clgt rt ra rb) s rt (fun q => ∀ j < 4,
      word q j = if (word (s.reg rb) j).toNat < (word (s.reg ra) j).toNat then 0xFFFFFFFF#32 else 0x00000000#32) ∧
    Writes (.clgti rt ra i10) s rt (fun q => ∀ j < 4,
      word q j = if (i10.signExtend 32).toNat < (word (s.reg ra) j).toNat then 0xFFFFFFFF#32 else 0x00000000#32)

/-- Halts: nothing but the next address where the condition is false; where it is true the SPU stops at the halt
before any later instruction, which is the model's choice (log entry 12). That the next address is
`(pc + 4) & LSLR` is the spec's reading (log entry 35). -/
def Obligations.HaltsStopOnTheCondition : Prop :=
  ∀ (s : State) (ra rb : Reg) (i10 : BitVec 10),
    HaltsIf (.heq ra rb) s (pref (s.reg ra) = pref (s.reg rb)) ∧
    HaltsIf (.heqi ra i10) s ((pref (s.reg ra)).toInt = i10.toInt) ∧
    HaltsIf (.hgt ra rb) s ((pref (s.reg rb)).toInt < (pref (s.reg ra)).toInt) ∧
    HaltsIf (.hgti ra i10) s (i10.toInt < (pref (s.reg ra)).toInt) ∧
    HaltsIf (.hlgt ra rb) s ((pref (s.reg rb)).toNat < (pref (s.reg ra)).toNat) ∧
    HaltsIf (.hlgti ra i10) s ((i10.signExtend 32).toNat < (pref (s.reg ra)).toNat)

/- Branches. -/

/-- Relative and absolute branches, with and without link. -/
def Obligations.BranchesGoToTheTarget : Prop :=
  ∀ (s : State) (rt : Reg) (i16 : BitVec 16),
    GoesTo (.br i16) s ((s.pc + (i16 ++ 0#2).signExtend 32) &&& s.lslr) ∧
    GoesTo (.bra i16) s ((i16 ++ 0#2).signExtend 32 &&& s.lslr) ∧
    LinksTo (.brsl rt i16) s rt ((s.pc + (i16 ++ 0#2).signExtend 32) &&& s.lslr) ∧
    LinksTo (.brasl rt i16) s rt ((i16 ++ 0#2).signExtend 32 &&& s.lslr)

/-- Conditional branches test the preferred slot, or its right halfword. -/
def Obligations.ConditionalBranchesTestThePreferredSlot : Prop :=
  ∀ (s : State) (rt : Reg) (i16 : BitVec 16),
    let target := (s.pc + (i16 ++ 0#2).signExtend 32) &&& s.lslr
    let next := (s.pc + 4#32) &&& s.lslr
    GoesTo (.brnz rt i16) s (if pref (s.reg rt) ≠ 0#32 then target else next) ∧
    GoesTo (.brz rt i16) s (if pref (s.reg rt) = 0#32 then target else next) ∧
    GoesTo (.brhnz rt i16) s (if (pref (s.reg rt)).toNat % 2 ^ 16 ≠ 0 then target else next) ∧
    GoesTo (.brhz rt i16) s (if (pref (s.reg rt)).toNat % 2 ^ 16 = 0 then target else next)

/-- Indirect branches whose feature bits are not both set; that a branch which is not taken ignores them, D = E = 1
among them, is the model's choice (log entry 4). -/
def Obligations.IndirectBranchesFollowTheRegister : Prop :=
  ∀ (s : State) (rt ra : Reg) (d e : Bool),
    ((d && e) = false → BranchesIndirectly (.bi ra d e) s ra d e ∧
      BranchesIndirectlyLinked (.bisl rt ra d e) s rt ra d e) ∧
    BranchesIf (.biz rt ra d e) s ra d e (pref (s.reg rt) = 0#32) ∧
    BranchesIf (.binz rt ra d e) s ra d e (pref (s.reg rt) ≠ 0#32) ∧
    BranchesIf (.bihz rt ra d e) s ra d e ((pref (s.reg rt)).toNat % 2 ^ 16 = 0) ∧
    BranchesIf (.bihnz rt ra d e) s ra d e ((pref (s.reg rt)).toNat % 2 ^ 16 ≠ 0)

/-- `bisled`: the link is written whether or not the branch is taken, which the external condition decides, read as
it stands when the instruction executes (log entry 11). That D and E are ignored where it is false, D = E = 1 among
them, is the model's choice (log entry 4). -/
def Obligations.BisledPollsTheExternalCondition : Prop :=
  ∀ (s : State) (rt ra : Reg) (d e : Bool),
    (s.extCond = true → (d && e) = false → BranchesIndirectlyLinked (.bisled rt ra d e) s rt ra d e) ∧
    (s.extCond = false → LinksTo (.bisled rt ra d e) s rt ((s.pc + 4#32) &&& s.lslr))

/-- A taken indirect branch with D = E = 1 is the event Undefined, which ends the run: the model's fault
(log entry 4). -/
def Obligations.BothFeatureBitsAreUndefined : Prop :=
  ∀ (s : State) (rt ra : Reg),
    exec (.bi ra true true) s = .fault (.undefinedBranch s.pc) ∧
    exec (.bisl rt ra true true) s = .fault (.undefinedBranch s.pc) ∧
    exec (.iret ra true true) s = .fault (.undefinedBranch s.pc) ∧
    (s.extCond = true → exec (.bisled rt ra true true) s = .fault (.undefinedBranch s.pc)) ∧
    (pref (s.reg rt) = 0#32 → exec (.biz rt ra true true) s = .fault (.undefinedBranch s.pc)) ∧
    (pref (s.reg rt) ≠ 0#32 → exec (.binz rt ra true true) s = .fault (.undefinedBranch s.pc)) ∧
    (hw (s.reg rt) 1 = 0#16 → exec (.bihz rt ra true true) s = .fault (.undefinedBranch s.pc)) ∧
    (hw (s.reg rt) 1 ≠ 0#16 → exec (.bihnz rt ra true true) s = .fault (.undefinedBranch s.pc))

/-- `iret` goes to the address in SRR0, masked (log entry 8); between a write to SRR0's channel and its
synchronisation to some address (log entry 9). -/
def Obligations.IretGoesToSrr0 : Prop :=
  ∀ (s : State) (ra : Reg) (d e : Bool), (d && e) = false →
    ∃ t a, exec (.iret ra d e) s = .next t ∧ (s.srr0Pending = none → a = s.srr0 ∧ t.free = s.free) ∧ SameRegs s t ∧
      BranchFrame (a &&& s.lslr &&& 0xFFFFFFFC#32) (ieAfter d e s.ie) s t

/-- Hints, `nop` and `lnop` have no effect: the next instruction follows (log entries 6, 35). -/
def Obligations.HintsAndNopsHaveNoEffect : Prop :=
  ∀ (s : State) (rt ra : Reg) (roh : BitVec 2) (rol : BitVec 7) (p : Bool) (i16 : BitVec 16),
    let next := (s.pc + 4#32) &&& s.lslr
    GoesTo (.hbr roh rol ra p) s next ∧ GoesTo (.hbra roh rol i16) s next ∧ GoesTo (.hbrr roh rol i16) s next ∧
    GoesTo .lnop s next ∧ GoesTo (.nop rt) s next

/- Floating point. -/

/-- Single-precision arithmetic, over rational numbers: the exact result, then one rounding. The page of `fa` is
missing in the source, and that `fi` delivers through the same rounding with RB as its only floating-point source is
the spec's reading (log entry 20). -/
def Obligations.SingleArithmeticRoundsOnce : Prop :=
  ∀ (s : State) (rt ra rb rc : Reg),
    let v := fun (r : Reg) (k : Nat) => singleValue (word (s.reg r) k)
    let two := fun k => [word (s.reg ra) k, word (s.reg rb) k]
    let three := fun k => [word (s.reg ra) k, word (s.reg rb) k, word (s.reg rc) k]
    WritesFlags (.fs rt ra rb) s rt (SingleSlices s.cfg .sub (s.reg ra) (s.reg rb) 0#128 two
      fun k => v ra k - v rb k) ∧
    WritesFlags (.fm rt ra rb) s rt (SingleSlices s.cfg .mul (s.reg ra) (s.reg rb) 0#128 two
      fun k => v ra k * v rb k) ∧
    WritesFlags (.fma rt ra rb rc) s rt (SingleSlices s.cfg .madd (s.reg ra) (s.reg rb) (s.reg rc) three
      fun k => v ra k * v rb k + v rc k) ∧
    WritesFlags (.fnms rt ra rb rc) s rt (SingleSlices s.cfg .nmsub (s.reg ra) (s.reg rb) (s.reg rc) three
      fun k => v rc k - v ra k * v rb k) ∧
    WritesFlags (.fms rt ra rb rc) s rt (SingleSlices s.cfg .msub (s.reg ra) (s.reg rb) (s.reg rc) three
      fun k => v ra k * v rb k - v rc k) ∧
    WritesFlags (.fa rt ra rb) s rt (SingleSlices s.cfg .add (s.reg ra) (s.reg rb) 0#128
      (fun k => [word (s.reg ra) k, word (s.reg rb) k])
      fun k => singleValue (word (s.reg ra) k) + singleValue (word (s.reg rb) k)) ∧
    WritesFlags (.fi rt ra rb) s rt (SingleSlices s.cfg .interp (s.reg ra) (s.reg rb) 0#128
      (fun k => [word (s.reg rb) k])
      fun k =>
        let b := word (s.reg rb) k
        let y : ℚ := ((word (s.reg ra) k).toNat % 2 ^ 19 : ℕ) / 2 ^ 19
        withSign (b.getLsbD 31) ((1 + ((b.toNat / 2 ^ 10 % 2 ^ 13 : ℕ) : ℚ) / 2 ^ 13 -
          ((b.toNat % 2 ^ 10 : ℕ) : ℚ) / 2 ^ 13 * y) * 2 ^ ((sExp b : ℤ) - 127)))

/-- Conversions with a scale of 0 to 127. From integer: the integer over 2 to the scale, rounded once. To integer:
truncated and saturated, no flag set; that the fraction is truncated is the spec's reading (log entry 21). -/
def Obligations.ConversionsRoundAndSaturate : Prop :=
  ∀ (s : State) (rt ra : Reg) (i8 : BitVec 8),
    let m := (155#8 - i8).toNat
    let n := (173#8 - i8).toNat
    let scales := ofWords fun _ => BitVec.ofNat 32 m
    let r := fun k => singleValue (word (s.reg ra) k) * 2 ^ n
    (m ≤ 127 →
      WritesFlags (.csflt rt ra i8) s rt (SingleSlices s.cfg .fromInt (s.reg ra) scales 0#128 (fun _ => [])
        fun k => ((word (s.reg ra) k).toInt : ℚ) / 2 ^ m) ∧
      WritesFlags (.cuflt rt ra i8) s rt (SingleSlices s.cfg .fromUint (s.reg ra) scales 0#128 (fun _ => [])
        fun k => ((word (s.reg ra) k).toNat : ℚ) / 2 ^ m)) ∧
    (n ≤ 127 →
      Writes (.cflts rt ra i8) s rt (fun q => ∀ k < 4, ∃ i, TruncatesTo |r k| i ∧ word q k =
        if r k < 0 then (if 2 ^ 31 < i then 0x80000000#32 else BitVec.ofInt 32 (-(i : ℤ)))
        else if 2 ^ 31 - 1 < i then 0x7FFFFFFF#32 else BitVec.ofNat 32 i) ∧
      Writes (.cfltu rt ra i8) s rt (fun q => ∀ k < 4, ∃ i, TruncatesTo |r k| i ∧ word q k =
        if r k < 0 then 0#32 else if 2 ^ 32 - 1 < i then 0xFFFFFFFF#32 else BitVec.ofNat 32 i))

/-- Conversions with another scale complete: the target register holds some value, single-precision flags may be
added, nothing else changes (log entry 19). -/
def Obligations.ConversionsOutOfRangeComplete : Prop :=
  ∀ (s : State) (rt ra : Reg) (i8 : BitVec 8) (i : Instr),
    (127 < (155#8 - i8).toNat ∧ i ∈ [Instr.csflt rt ra i8, Instr.cuflt rt ra i8] ∨
      127 < (173#8 - i8).toNat ∧ i ∈ [Instr.cflts rt ra i8, Instr.cfltu rt ra i8]) →
    ∃ t flags, exec i s = .next t ∧ SameRegsBut rt s t ∧ t.fpscr = s.fpscr ||| flags ∧
      flags &&& ~~~singleFlagMask = 0#128 ∧ SameRest s t

/-- The estimates: in each word the value of the implementation's table, a function of the operand, for `frsqest` of
its magnitude and with sign 0; DBZ of a slice whose operand has a zero exponent. The tables are open within what the
spec states of them (log entry 16): the sequences that begin with an estimate, executed in the reference instance,
deliver 1/x and 1/sqrt(x) within one unit in the last place, and the results stated for a zero exponent and for a
large operand. -/
def Obligations.EstimatesSetDivideByZeroAndAreAccurate : Prop :=
  (∀ (s : State) (rt ra : Reg),
    let dbz := fun (flags : Quad) => ∀ n < 128, flags.getLsbD n =
      (decide (8 ≤ n ∧ n ≤ 11) && sExp (word (s.reg ra) (11 - n)) == 0)
    WritesFlags (.frest rt ra) s rt (fun q flags =>
      (∀ k < 4, word q k = reciprocalEstimate (word (s.reg ra) k)) ∧ dbz flags) ∧
    WritesFlags (.frsqest rt ra) s rt (fun q flags => (∀ k < 4, (word q k).getLsbD 31 = false ∧
      word q k = rootEstimate (word (s.reg ra) k &&& 0x7FFFFFFF#32)) ∧ dbz flags)) ∧
  (∀ (s : State) (x one y0 y1 t1 y2 : Reg), s.cfg.fpSingleRef = true → [x, one, y0, y1, t1].Nodup →
    (∀ k < 4, word (s.reg one) k = 0x3F800000#32) →
    ∃ t, RunsTo [.frest y0 x, .fi y1 x y0, .fnms t1 x y1 one, .fma y2 t1 y1 y1] s t ∧
      ∀ k < 4, ReciprocalResult (word (s.reg x) k) (word (t.reg y2) k)) ∧
  (∀ (s : State) (x mask half one y0 ax y1 t1 t2 y2 : Reg), s.cfg.fpSingleRef = true →
    [x, mask, half, one, y0, ax, y1, t1, t2].Nodup → (∀ k < 4, word (s.reg mask) k = 0x7FFFFFFF#32) →
    (∀ k < 4, word (s.reg half) k = 0x3F000000#32) → (∀ k < 4, word (s.reg one) k = 0x3F800000#32) →
    ∃ t, RunsTo [.frsqest y0 x, .and ax x mask, .fi y1 ax y0, .fm t1 ax y1, .fm t2 y1 half, .fnms t1 t1 y1 one,
        .fma y2 t1 t2 y1] s t ∧
      ∀ k < 4, RootResult (word (s.reg x) k) (word (t.reg y2) k))

/-- Single-precision compares, over rational numbers: every zero exponent is zero, and no word is a NaN. -/
def Obligations.SingleComparesCompareValues : Prop :=
  ∀ (s : State) (rt ra rb : Reg),
    let a := fun k => singleValue (word (s.reg ra) k)
    let b := fun k => singleValue (word (s.reg rb) k)
    Writes (.fceq rt ra rb) s rt (fun q => ∀ k < 4, word q k = if a k = b k then 0xFFFFFFFF#32 else 0#32) ∧
    Writes (.fcmeq rt ra rb) s rt (fun q => ∀ k < 4, word q k = if |a k| = |b k| then 0xFFFFFFFF#32 else 0#32) ∧
    Writes (.fcgt rt ra rb) s rt (fun q => ∀ k < 4, word q k = if b k < a k then 0xFFFFFFFF#32 else 0#32) ∧
    Writes (.fcmgt rt ra rb) s rt (fun q => ∀ k < 4, word q k = if |b k| < |a k| then 0xFFFFFFFF#32 else 0#32)

/-- Double-precision arithmetic. In the reference instance, on finite operands and over rational numbers: denormals
made zero where the configuration says so (log entry 17), the exact result rounded once by the mode of the slice,
negated after the rounding by `dfnms` and `dfnma`. The IEEE content is the spec's, from general knowledge
(log entry 21). Another implementation delivers its own function (log entry 15). -/
def Obligations.DoubleArithmeticRoundsOnce : Prop :=
  ∀ (s : State) (rt ra rb : Reg),
    let negate := fun y => if dNaN y then y &&& 0x7FFFFFFFFFFFFFFF#64 else y ^^^ 0x8000000000000000#64
    let delivers := fun (op : DoubleOp) (post : Dword → Dword) (c : Nat → Dword) (inputs : List Reg) (k : Nat)
        (d : Dword) (f : DoubleFlags) =>
      let mode := if k = 0 then (word s.fpscr 0).extractLsb' 10 2 else (word s.fpscr 0).extractLsb' 8 2
      let x := flush s.cfg (dword (s.reg ra) k)
      let y := flush s.cfg (dword (s.reg rb) k)
      let z := flush s.cfg (c k)
      (s.cfg.fpDoubleRef = true → (∀ r ∈ inputs, dFinite (dword (s.reg r) k)) →
        ∃ p g, DoubleRounds mode (doubleZeroSign op mode x y z) (doubleExact op x y z) p g ∧ d = post p ∧
          f = { g with denorm := inputs.any fun r => s.cfg.dpDenormInputZero && dDenormal (dword (s.reg r) k) }) ∧
      (s.cfg.fpDoubleRef = false →
        ∃ p, Config.fpDoubleOther op mode (dword (s.reg ra) k) (dword (s.reg rb) k) (c k) = (p, f) ∧ d = post p)
    DoubleSlices (.dfa rt ra rb) s rt (delivers .add id (fun _ => 0#64) [ra, rb]) ∧
    DoubleSlices (.dfs rt ra rb) s rt (delivers .sub id (fun _ => 0#64) [ra, rb]) ∧
    DoubleSlices (.dfm rt ra rb) s rt (delivers .mul id (fun _ => 0#64) [ra, rb]) ∧
    DoubleSlices (.dfma rt ra rb) s rt (delivers .madd id (dword (s.reg rt)) [ra, rb, rt]) ∧
    DoubleSlices (.dfms rt ra rb) s rt (delivers .msub id (dword (s.reg rt)) [ra, rb, rt]) ∧
    DoubleSlices (.dfnms rt ra rb) s rt (delivers .msub negate (dword (s.reg rt)) [ra, rb, rt]) ∧
    DoubleSlices (.dfnma rt ra rb) s rt (delivers .madd negate (dword (s.reg rt)) [ra, rb, rt])

/-- Double-precision NaNs and infinities in the reference instance. A NaN operand: where the configuration delivers
the default, the default QNaN and the NaN flag; where it does not, one of the operand NaNs, a quiet one as it is, a
signalling one made some quiet NaN, and no NaN flag (log entry 18); INV for a signalling one in both. Infinity minus
infinity and infinity times zero set INV and deliver the default QNaN; that a NaN added to infinity times zero comes
first is the model's choice (log entry 41). Another infinite operand or product delivers the infinity
with the IEEE sign and no flag but that of a denormal made zero (log entry 17). The negating forms invert the sign of
an infinity and clear that of a NaN. The IEEE content is the spec's, from general knowledge (log entry 21). -/
def Obligations.DoubleSpecialOperands : Prop :=
  ∀ (s : State) (rt ra rb : Reg), s.cfg.fpDoubleRef = true →
    let a := fun k => dword (s.reg ra) k
    let b := fun k => dword (s.reg rb) k
    let t := fun k => dword (s.reg rt) k
    let nan := fun (clear : Bool) (inputs : Nat → List Dword) (k : Nat) (d : Dword) (f : DoubleFlags) =>
      (s.cfg.dpNanDefault = true → (inputs k).any dNaN = true →
        d = 0x7FF8000000000000#64 ∧ f.nan = true ∧ f.inv = (inputs k).any dSNaN ∧ f.ovf = false ∧ f.unf = false ∧
        f.inx = false) ∧
      (s.cfg.dpNanDefault = false → (inputs k).any dNaN = true →
        (∃ x ∈ inputs k, ∃ p, dNaN x = true ∧ dNaN p = true ∧ dSNaN p = false ∧ (dSNaN x = false → p = x) ∧
          d = if clear then p &&& 0x7FFFFFFFFFFFFFFF#64 else p) ∧
        f.nan = false ∧ f.inv = (inputs k).any dSNaN ∧ f.ovf = false ∧ f.unf = false ∧ f.inx = false)
    let invalid := fun (bad : Nat → Prop) (k : Nat) (d : Dword) (f : DoubleFlags) =>
      bad k → d = 0x7FF8000000000000#64 ∧ f.inv = true ∧ f.nan = false ∧ f.ovf = false ∧ f.unf = false ∧
        f.inx = false
    let delivers := fun (inputs : Nat → List Dword) (bad : Nat → Prop) (inf : Nat → Prop) (neg : Nat → Bool) (k : Nat)
        (d : Dword) (f : DoubleFlags) =>
      (inputs k).any dNaN = false → ¬bad k → inf k →
        d = BitVec.ofBool (neg k) ++ 0x7FF0000000000000#63 ∧
        f = { DoubleFlags.none with denorm := (inputs k).any fun x => s.cfg.dpDenormInputZero && dDenormal x }
    let all := fun (clear : Bool) (inputs : Nat → List Dword) (bad inf : Nat → Prop) (neg : Nat → Bool) (k : Nat)
        (d : Dword) (f : DoubleFlags) =>
      nan clear inputs k d f ∧ invalid bad k d f ∧ delivers inputs bad inf neg k d f
    let timesZero := fun k => dInf (a k) ∧ dZero (flush s.cfg (b k)) ∨ dZero (flush s.cfg (a k)) ∧ dInf (b k)
    let infinite := fun k => (dInf (a k) ∧ dExp (b k) ≠ 2047 ∨ dInf (b k) ∧ dExp (a k) ≠ 2047 ∨
      dInf (a k) ∧ dInf (b k))
    let two := fun k => [a k, b k]
    let three := fun k => [a k, b k, t k]
    let product := fun k => dSign (a k) != dSign (b k)
    let ofTwo := fun k => dInf (a k) = true ∨ dInf (b k) = true
    let ofThree := fun k => dInf (a k) = true ∨ dInf (b k) = true ∨ dInf (t k) = true
    let badSum := fun k => dNaN (t k) = false ∧ (timesZero k ∨ infinite k ∧ dInf (t k) ∧ product k ≠ dSign (t k))
    let badDifference := fun k => dNaN (t k) = false ∧
      (timesZero k ∨ infinite k ∧ dInf (t k) ∧ product k = dSign (t k))
    let sumSign := fun k => if dInf (a k) || dInf (b k) then product k else dSign (t k)
    let differenceSign := fun k => if dInf (a k) || dInf (b k) then product k else !dSign (t k)
    DoubleSlices (.dfa rt ra rb) s rt (all false two
      (fun k => dInf (a k) ∧ dInf (b k) ∧ dSign (a k) ≠ dSign (b k)) ofTwo
      (fun k => if dInf (a k) then dSign (a k) else dSign (b k))) ∧
    DoubleSlices (.dfs rt ra rb) s rt (all false two
      (fun k => dInf (a k) ∧ dInf (b k) ∧ dSign (a k) = dSign (b k)) ofTwo
      (fun k => if dInf (a k) then dSign (a k) else !dSign (b k))) ∧
    DoubleSlices (.dfm rt ra rb) s rt (all false two timesZero ofTwo product) ∧
    DoubleSlices (.dfma rt ra rb) s rt (all false three badSum ofThree sumSign) ∧
    DoubleSlices (.dfms rt ra rb) s rt (all false three badDifference ofThree differenceSign) ∧
    DoubleSlices (.dfnms rt ra rb) s rt (all true three badDifference ofThree fun k => !differenceSign k) ∧
    DoubleSlices (.dfnma rt ra rb) s rt (all true three badSum ofThree fun k => !sumSign k)

/-- The conversions between the formats. `fesd` keeps the value of an IEEE single; a denormal that the configuration
makes zero sets DENORM. `frds` rounds a double to IEEE single by the mode of the slice and clears the right word
(log entries 17, 18, 21). -/
def Obligations.FormatConversionsExtendAndRound : Prop :=
  ∀ (s : State) (rt ra : Reg),
    (DoubleSlices (.fesd rt ra) s rt fun k d f =>
      let w := word (s.reg ra) (2 * k)
      let lost := s.cfg.dpDenormInputZero && sDenormal w
      (sExp w ≠ 255 → dSign d = w.getLsbD 31 ∧ dFinite d ∧
        doubleMagnitude d = (if lost = true then 0 else ieeeMagnitude w) ∧
        f = { DoubleFlags.none with denorm := lost }) ∧
      (sExp w = 255 → sFrac w = 0 → d = infinity (w.getLsbD 31) ∧ f = DoubleFlags.none) ∧
      (sExp w = 255 → sFrac w ≠ 0 → s.cfg.dpNanDefault = true →
        d = 0x7FF8000000000000#64 ∧ f = ⟨false, false, false, !w.getLsbD 22, true, false⟩)) ∧
    (WritesFlags (.frds rt ra) s rt fun q flags =>
      ∃ f : Nat → DoubleFlags, flags = doubleFlagQuad f ∧ ∀ k < 2,
        let mode := if k = 0 then (word s.fpscr 0).extractLsb' 10 2 else (word s.fpscr 0).extractLsb' 8 2
        let lost := s.cfg.dpDenormInputZero && dDenormal (dword (s.reg ra) k)
        let d := flush s.cfg (dword (s.reg ra) k)
        let w := word q (2 * k)
        word q (2 * k + 1) = 0#32 ∧
        (dFinite d → doubleMagnitude d = 0 → w = BitVec.ofBool (dSign d) ++ 0#31 ∧
          f k = { DoubleFlags.none with denorm := lost }) ∧
        (dFinite d → doubleMagnitude d ≠ 0 → ∃ m,
          MagnitudeRounds singleFormat mode (dSign d) (doubleMagnitude d) m (f k) ∧ SingleIs w (dSign d) m) ∧
        (dInf d = true → w = BitVec.ofBool (dSign d) ++ 0x7F800000#31 ∧ f k = DoubleFlags.none) ∧
        (dNaN d = true → s.cfg.dpNanDefault = true →
          w = 0x7FC00000#32 ∧ f k = ⟨false, false, false, dSNaN d, true, false⟩))

/-- Double compares, over rational numbers with the infinities: NaN is false and INV; denormals keep their values and
set no flag, which is the spec's reading (log entry 22). -/
def Obligations.DoubleComparesCompareValues : Prop :=
  ∀ (s : State) (rt ra rb : Reg), s.cfg.hasDpCompare = true →
    ComparesDoubles (.dfceq rt ra rb) s rt ra rb (fun a b => doubleOrder a = doubleOrder b) ∧
    ComparesDoubles (.dfcmeq rt ra rb) s rt ra rb (fun a b => doubleSize a = doubleSize b) ∧
    ComparesDoubles (.dfcgt rt ra rb) s rt ra rb (fun a b => doubleOrder b < doubleOrder a) ∧
    ComparesDoubles (.dfcmgt rt ra rb) s rt ra rb (fun a b => doubleSize b < doubleSize a)

/-- `dftsv`: a slot is all ones if the double is of a class that a bit of I7 selects, all zeros otherwise. That it
sees denormals as they are whatever the configuration makes of them, and sets no flag for them, is the spec's reading
(log entry 22). -/
def Obligations.TestSpecialValueSelectsClasses : Prop :=
  ∀ (s : State) (rt ra : Reg) (i7 : BitVec 7), s.cfg.hasDpCompare = true →
    Writes (.dftsv rt ra i7) s rt fun q => ∀ k < 2,
      let d := dword (s.reg ra) k
      let neg := d.getLsbD 63 = true
      let e := (d.extractLsb' 52 11).toNat
      let f := (d.extractLsb' 0 52).toNat
      dword q k = if (i7.getLsbD 6 = true ∧ e = 2047 ∧ f ≠ 0) ∨ (i7.getLsbD 5 = true ∧ ¬neg ∧ e = 2047 ∧ f = 0) ∨
          (i7.getLsbD 4 = true ∧ neg ∧ e = 2047 ∧ f = 0) ∨ (i7.getLsbD 3 = true ∧ ¬neg ∧ e = 0 ∧ f = 0) ∨
          (i7.getLsbD 2 = true ∧ neg ∧ e = 0 ∧ f = 0) ∨ (i7.getLsbD 1 = true ∧ ¬neg ∧ e = 0 ∧ f ≠ 0) ∨
          (i7.getLsbD 0 = true ∧ neg ∧ e = 0 ∧ f ≠ 0)
        then BitVec.allOnes 64 else 0#64

/-- `fscrwr` replaces FPSCR by the defined bits of the register, unused bits not kept (log entry 23), and writes no
register; `fscrrd` reads FPSCR, every unused bit forced to 0. -/
def Obligations.FpscrIsWrittenAndRead : Prop :=
  ∀ (s : State) (ra rt : Reg),
    (∃ t, exec (.fscrwr ra rt) s = .next t ∧ SameRegs s t ∧
      t.fpscr = s.reg ra &&& 0x00000F07_00003F07_00003F07_00000F07#128 ∧ t.free = s.free ∧ SameRest s t) ∧
    Writes (.fscrrd rt) s rt fun q => q = s.fpscr &&& 0x00000F07_00003F07_00003F07_00000F07#128

/- Control and channels. -/

/-- `stop` and `stopd` end the run normally: pc at the next instruction, a `sync.c` performed, no register changed;
what the environment is told is the spec's, from general knowledge (log entry 5). -/
def Obligations.StopEndsTheRunPrecisely : Prop :=
  ∀ (s : State) (sig : BitVec 14) (rt ra rb : Reg),
    StopsWith (.stop sig) s ((s.pc + 4#32) &&& s.lslr) (.signal sig) ∧
    StopsWith (.stopd rt ra rb) s ((s.pc + 4#32) &&& s.lslr) .stopd

/-- `sync` and `dsync` change what is pending and nothing else; `sync.c` also brings a written SRR0 into force
(log entries 31, 35). -/
def Obligations.SynchronisationEmptiesWhatIsPending : Prop :=
  ∀ (s : State) (c : Bool),
    (∃ t, exec .dsync s = .next t ∧ t.dataHist = [] ∧ t.fetchHist = s.fetchHist ∧ SameRegs s t ∧
      t.pc = (s.pc + 4#32) &&& s.lslr ∧ SameBytes s t ∧ t.fpscr = s.fpscr ∧ SameControl s t ∧ SameEnv s t ∧
      t.free = s.free) ∧
    (∃ t, exec (.sync c) s = .next t ∧ t.dataHist = [] ∧ t.fetchHist = [] ∧ SameRegs s t ∧
      t.pc = (s.pc + 4#32) &&& s.lslr ∧ SameBytes s t ∧ t.fpscr = s.fpscr ∧ SameEnv s t ∧ t.free = s.free ∧
      t.ie = s.ie ∧ t.spr = s.spr ∧ t.chan = s.chan ∧ t.run = s.run ∧ t.wait = s.wait ∧
      (c = true → t.srr0 = s.srr0Pending.getD s.srr0 ∧ t.srr0Pending = none) ∧
      (c = false → t.srr0 = s.srr0 ∧ t.srr0Pending = s.srr0Pending))

/-- `mfspr` copies a special-purpose register, a 32-bit one in the preferred slot with zeros beside it, 0 for one
that is not defined; `mtspr` copies a register into a special-purpose register, its preferred slot into a 32-bit one,
and one that is not defined ignores it. -/
def Obligations.SpecialPurposeRegistersAreCopied : Prop :=
  ∀ (s : State) (rt : Reg) (sa : BitVec 7),
    (Writes (.mfspr rt sa) s rt fun q =>
      (s.spr[sa.toNat] = none → q = 0#128) ∧ (∀ v, s.spr[sa.toNat] = some (.full v) → q = v) ∧
      (∀ v, s.spr[sa.toNat] = some (.narrow v) → pref q = v ∧ ∀ j, 0 < j → j < 4 → word q j = 0#32)) ∧
    ∃ t, exec (.mtspr sa rt) s = .next t ∧ SameRegs s t ∧
      (s.spr[sa.toNat] = none → t.spr = s.spr) ∧
      (∀ v, s.spr[sa.toNat] = some (.full v) → t.spr[sa.toNat] = some (.full (s.reg rt))) ∧
      (∀ v, s.spr[sa.toNat] = some (.narrow v) → t.spr[sa.toNat] = some (.narrow (pref (s.reg rt)))) ∧
      (∀ r : BitVec 7, r ≠ sa → t.spr[r.toNat] = s.spr[r.toNat]) ∧ t.fpscr = s.fpscr ∧ SameBytes s t ∧
      SameEnv s t ∧ SameHist s t ∧ t.srr0 = s.srr0 ∧ t.srr0Pending = s.srr0Pending ∧ t.ie = s.ie ∧
      t.chan = s.chan ∧ t.run = s.run ∧ t.wait = s.wait ∧ t.free = s.free

/-- `rchcnt` reads the count of a channel, 0 for one that is not implemented, 1 for the two SRR0 channels, and never
waits or stops. `rdch` and `wrch` on a channel that has data, or room: the oldest datum goes into RT, RT's value behind
the data in flight; a 32-bit channel uses the preferred slot. Channels 14 and 15 are those of SRR0 (log entry 7):
`rdch` of 15 never waits and reads SRR0, or, while a value for it is pending, some word (log entry 9); `wrch` of 14 is
in Srr0IsWrittenReadAndReturnedTo. That they go on to `(pc + 4) & LSLR` is the spec's reading (log entry 35). -/
def Obligations.ChannelsCountAndMoveData : Prop :=
  (∀ (s : State) (rt : Reg) (ca : BitVec 7), Writes (.rchcnt rt ca) s rt fun q =>
    (∀ j, 0 < j → j < 4 → word q j = 0#32) ∧
    ((ca = 14#7 ∨ ca = 15#7) → pref q = 1#32) ∧
    (ca ≠ 14#7 → ca ≠ 15#7 → s.chan[ca.toNat] = none → pref q = 0#32) ∧
    (ca ≠ 14#7 → ca ≠ 15#7 → ∀ c, s.chan[ca.toNat] = some c → pref q = BitVec.ofNat 32 c.count)) ∧
  (∀ (s : State) (rt : Reg), ∃ t, exec (.rdch rt 15#7) s = .next t ∧ SameRegsBut rt s t ∧ ChannelFrame 15#7 s t ∧
    t.chan = s.chan ∧ t.pc = (s.pc + 4#32) &&& s.lslr ∧ t.srr0Pending = s.srr0Pending ∧
    (∀ j, 0 < j → j < 4 → word (t.reg rt) j = 0#32) ∧
    (s.srr0Pending = none → pref (t.reg rt) = s.srr0 ∧ t.free = s.free)) ∧
  ∀ (s : State) (rt : Reg) (ca : BitVec 7) (c : Channel), ca ≠ 14#7 → ca ≠ 15#7 → s.chan[ca.toNat] = some c →
    (∀ n d ds, c.dir = .read → c.count = n + 1 → c.queue = d :: ds →
      ∃ t, exec (.rdch rt ca) s = .next t ∧ SameRegsBut rt s t ∧ ChannelFrame ca s t ∧
        t.pc = (s.pc + 4#32) &&& s.lslr ∧ t.free = s.free ∧ t.srr0Pending = s.srr0Pending ∧
        t.chan[ca.toNat] = some { c with count := n, queue := ds } ∧
        (c.width = .w128 → t.reg rt = d) ∧
        (c.width = .w32 → pref (t.reg rt) = pref d ∧ ∀ j, 0 < j → j < 4 → word (t.reg rt) j = 0#32)) ∧
    (∀ n, c.dir = .write → c.count = n + 1 →
      ∃ t v, exec (.wrch ca rt) s = .next t ∧ SameRegs s t ∧ ChannelFrame ca s t ∧
        t.pc = (s.pc + 4#32) &&& s.lslr ∧ t.free = s.free ∧ t.srr0Pending = s.srr0Pending ∧
        t.chan[ca.toNat] = some { c with count := n, queue := c.queue ++ [v] } ∧
        (c.width = .w128 → v = s.reg rt) ∧
        (c.width = .w32 → pref v = pref (s.reg rt) ∧ ∀ j, 0 < j → j < 4 → word v j = 0#32))

/-- A channel without capacity: the instruction waits, the SPU still running at the same pc, and every further step
without a device is the same state, whatever the external condition is. A step in which an instruction waits is that
instruction, tried again in the state the devices' acts leave, so it completes once there is capacity: the datum goes
into RT, or RT's value behind the data in flight, and nothing waits any more (log entries 14, 33). -/
def Obligations.ChannelInstructionsWaitForCapacity : Prop :=
  (∀ (s : State) (rt : Reg) (ca : BitVec 7) (c : Channel), ca ≠ 14#7 → ca ≠ 15#7 → s.chan[ca.toNat] = some c →
    c.count = 0 → s.run = .running → s.devices = [] →
    (c.dir = .read → ∃ t, exec (.rdch rt ca) s = .next t ∧ t = { s with wait := some (.read rt ca) } ∧
      step t = .next t) ∧
    (c.dir = .write → ∃ t, exec (.wrch ca rt) s = .next t ∧ t = { s with wait := some (.write ca rt) } ∧
      step t = .next t)) ∧
  (∀ (s t u : State) (rt : Reg) (ca : BitVec 7), s.dropTurn.applyActs s.turn.early = .ok t → t.wait ≠ none →
    t.applyActs s.turn.late = .ok u → u.run = .running →
    (u.wait = some (.read rt ca) → step s = exec (.rdch rt ca) u) ∧
    (u.wait = some (.write ca rt) → step s = exec (.wrch ca rt) u)) ∧
  (∀ (s : State) (rt : Reg) (ca : BitVec 7) (c : Channel) (n : Nat), ca ≠ 14#7 → ca ≠ 15#7 →
    s.chan[ca.toNat] = some c → c.count = n + 1 → s.run = .running → s.devices = [] →
    (∀ d ds, s.wait = some (.read rt ca) → c.dir = .read → c.queue = d :: ds →
      ∃ t, step s = .next t ∧ t.wait = none ∧ t.pc = (s.pc + 4#32) &&& s.lslr ∧ SameRegsBut rt s t ∧
        ChannelFrame ca s t ∧ t.srr0Pending = s.srr0Pending ∧ t.free = s.free ∧
        t.chan[ca.toNat] = some { c with count := n, queue := ds } ∧ t.reg rt = c.width.narrow d) ∧
    (s.wait = some (.write ca rt) → c.dir = .write →
      ∃ t, step s = .next t ∧ t.wait = none ∧ t.pc = (s.pc + 4#32) &&& s.lslr ∧ SameRegs s t ∧
        ChannelFrame ca s t ∧ t.srr0Pending = s.srr0Pending ∧ t.free = s.free ∧
        t.chan[ca.toNat] = some { c with count := n, queue := c.queue ++ [c.width.narrow (s.reg rt)] }))

/-- A channel that is no readable one for `rdch`, or no writable one for `wrch`: the SPU stops at the instruction,
RT unwritten, which is the model's choice (log entry 13). Channels 14 and 15 are those of SRR0, the first for writing,
the second for reading; the number 15 is general knowledge (log entry 7). -/
def Obligations.InvalidChannelsStop : Prop :=
  ∀ (s : State) (rt : Reg) (ca : BitVec 7),
    ((ca = 14#7 ∨ ca ≠ 15#7 ∧ ∀ c, s.chan[ca.toNat] = some c → c.dir = .write) →
      StopsWith (.rdch rt ca) s s.pc (.invalidChannel s.pc ca)) ∧
    ((ca = 15#7 ∨ ca ≠ 14#7 ∧ ∀ c, s.chan[ca.toNat] = some c → c.dir = .read) →
      StopsWith (.wrch ca rt) s s.pc (.invalidChannel s.pc ca))

/-- Writing SRR0 through its channel, `sync.c`, then `iret` goes to the address written, masked, and `rdch` reads it
back (log entries 7, 8). Before the `sync.c` only the model's hidden field `srr0` is as it was: the SRR0 that `iret`
and `rdch` would see is unspecified there, a free value (log entry 9, D16). -/
def Obligations.Srr0IsWrittenReadAndReturnedTo : Prop :=
  ∀ (s : State) (rt rt' ra : Reg), ∃ t, exec (.wrch 14#7 rt) s = .next t ∧ t.srr0 = s.srr0 ∧ SameRegs s t ∧
    ChannelFrame 14#7 s t ∧ t.chan = s.chan ∧ t.free = s.free ∧
    ∃ u, exec (.sync true) t = .next u ∧ u.srr0 = pref (s.reg rt) ∧
      (∃ v, exec (.iret ra false false) u = .next v ∧
        v.pc = pref (s.reg rt) &&& s.lslr &&& 0xFFFFFFFC#32 ∧ v.ie = s.ie) ∧
      (∃ v, exec (.rdch rt' 15#7) u = .next v ∧ SameRegsBut rt' s v ∧ pref (v.reg rt') = pref (s.reg rt) ∧
        ∀ j, 0 < j → j < 4 → word (v.reg rt') j = 0#32)
end

