-- ==== Sys2Proof/Laws/Lanes.lean ====
section
/-!
SUPPORT. Reading a slot of a register put together from slots, and a register told by its slots.
-/

set_option Elab.async false

namespace Sys2Proof.Machine

theorem extract_high {w v : Nat} (x : BitVec w) (y : BitVec v) : (x ++ y).extractLsb' v w = x := by
  apply BitVec.eq_of_getLsbD_eq
  intro i hi
  simp [BitVec.getLsbD_append, hi]

theorem extract_low {w v k n : Nat} (x : BitVec w) (y : BitVec v) (h : k + n ≤ v) :
    (x ++ y).extractLsb' k n = y.extractLsb' k n := by
  apply BitVec.eq_of_getLsbD_eq
  intro i hi
  have : k + i < v := by omega
  simp [BitVec.getLsbD_append, this]

theorem extract_all {w : Nat} (x : BitVec w) : x.extractLsb' 0 w = x := by simp

/-- A slot of a slot is a slot. -/
theorem extract_extract {w k n k' n' : Nat} (x : BitVec w) (h : k' + n' ≤ n) :
    (x.extractLsb' k n).extractLsb' k' n' = x.extractLsb' (k + k') n' := by
  apply BitVec.eq_of_getLsbD_eq
  intro i hi
  have h1 : k' + i < n := by omega
  simp [hi, h1, Nat.add_assoc]

theorem byte_ofBytes (f : Nat → Byte) (j : Nat) (h : j < 16) : byte (ofBytes f) j = f j := by
  interval_cases j
  · exact extract_high (w := 8) (v := 120) _ _
  · exact (extract_low (w := 8) (v := 120) _ _ (by decide)).trans (extract_high (w := 8) (v := 112) _ _)
  · exact (extract_low (w := 8) (v := 120) _ _ (by decide)).trans ((extract_low (w := 8) (v := 112) _ _ (by decide)).trans (
      extract_high (w := 8) (v := 104) _ _))
  · exact (extract_low (w := 8) (v := 120) _ _ (by decide)).trans ((extract_low (w := 8) (v := 112) _ _ (by decide)).trans (
      (extract_low (w := 8) (v := 104) _ _ (by decide)).trans (extract_high (w := 8) (v := 96) _ _)))
  · exact (extract_low (w := 8) (v := 120) _ _ (by decide)).trans ((extract_low (w := 8) (v := 112) _ _ (by decide)).trans (
      (extract_low (w := 8) (v := 104) _ _ (by decide)).trans ((extract_low (w := 8) (v := 96) _ _ (by decide)).trans (
      extract_high (w := 8) (v := 88) _ _))))
  · exact (extract_low (w := 8) (v := 120) _ _ (by decide)).trans ((extract_low (w := 8) (v := 112) _ _ (by decide)).trans (
      (extract_low (w := 8) (v := 104) _ _ (by decide)).trans ((extract_low (w := 8) (v := 96) _ _ (by decide)).trans (
      (extract_low (w := 8) (v := 88) _ _ (by decide)).trans (extract_high (w := 8) (v := 80) _ _)))))
  · exact (extract_low (w := 8) (v := 120) _ _ (by decide)).trans ((extract_low (w := 8) (v := 112) _ _ (by decide)).trans (
      (extract_low (w := 8) (v := 104) _ _ (by decide)).trans ((extract_low (w := 8) (v := 96) _ _ (by decide)).trans (
      (extract_low (w := 8) (v := 88) _ _ (by decide)).trans ((extract_low (w := 8) (v := 80) _ _ (by decide)).trans (
      extract_high (w := 8) (v := 72) _ _))))))
  · exact (extract_low (w := 8) (v := 120) _ _ (by decide)).trans ((extract_low (w := 8) (v := 112) _ _ (by decide)).trans (
      (extract_low (w := 8) (v := 104) _ _ (by decide)).trans ((extract_low (w := 8) (v := 96) _ _ (by decide)).trans (
      (extract_low (w := 8) (v := 88) _ _ (by decide)).trans ((extract_low (w := 8) (v := 80) _ _ (by decide)).trans (
      (extract_low (w := 8) (v := 72) _ _ (by decide)).trans (extract_high (w := 8) (v := 64) _ _)))))))
  · exact (extract_low (w := 8) (v := 120) _ _ (by decide)).trans ((extract_low (w := 8) (v := 112) _ _ (by decide)).trans (
      (extract_low (w := 8) (v := 104) _ _ (by decide)).trans ((extract_low (w := 8) (v := 96) _ _ (by decide)).trans (
      (extract_low (w := 8) (v := 88) _ _ (by decide)).trans ((extract_low (w := 8) (v := 80) _ _ (by decide)).trans (
      (extract_low (w := 8) (v := 72) _ _ (by decide)).trans ((extract_low (w := 8) (v := 64) _ _ (by decide)).trans (
      extract_high (w := 8) (v := 56) _ _))))))))
  · exact (extract_low (w := 8) (v := 120) _ _ (by decide)).trans ((extract_low (w := 8) (v := 112) _ _ (by decide)).trans (
      (extract_low (w := 8) (v := 104) _ _ (by decide)).trans ((extract_low (w := 8) (v := 96) _ _ (by decide)).trans (
      (extract_low (w := 8) (v := 88) _ _ (by decide)).trans ((extract_low (w := 8) (v := 80) _ _ (by decide)).trans (
      (extract_low (w := 8) (v := 72) _ _ (by decide)).trans ((extract_low (w := 8) (v := 64) _ _ (by decide)).trans (
      (extract_low (w := 8) (v := 56) _ _ (by decide)).trans (extract_high (w := 8) (v := 48) _ _)))))))))
  · exact (extract_low (w := 8) (v := 120) _ _ (by decide)).trans ((extract_low (w := 8) (v := 112) _ _ (by decide)).trans (
      (extract_low (w := 8) (v := 104) _ _ (by decide)).trans ((extract_low (w := 8) (v := 96) _ _ (by decide)).trans (
      (extract_low (w := 8) (v := 88) _ _ (by decide)).trans ((extract_low (w := 8) (v := 80) _ _ (by decide)).trans (
      (extract_low (w := 8) (v := 72) _ _ (by decide)).trans ((extract_low (w := 8) (v := 64) _ _ (by decide)).trans (
      (extract_low (w := 8) (v := 56) _ _ (by decide)).trans ((extract_low (w := 8) (v := 48) _ _ (by decide)).trans (
      extract_high (w := 8) (v := 40) _ _))))))))))
  · exact (extract_low (w := 8) (v := 120) _ _ (by decide)).trans ((extract_low (w := 8) (v := 112) _ _ (by decide)).trans (
      (extract_low (w := 8) (v := 104) _ _ (by decide)).trans ((extract_low (w := 8) (v := 96) _ _ (by decide)).trans (
      (extract_low (w := 8) (v := 88) _ _ (by decide)).trans ((extract_low (w := 8) (v := 80) _ _ (by decide)).trans (
      (extract_low (w := 8) (v := 72) _ _ (by decide)).trans ((extract_low (w := 8) (v := 64) _ _ (by decide)).trans (
      (extract_low (w := 8) (v := 56) _ _ (by decide)).trans ((extract_low (w := 8) (v := 48) _ _ (by decide)).trans (
      (extract_low (w := 8) (v := 40) _ _ (by decide)).trans (extract_high (w := 8) (v := 32) _ _)))))))))))
  · exact (extract_low (w := 8) (v := 120) _ _ (by decide)).trans ((extract_low (w := 8) (v := 112) _ _ (by decide)).trans (
      (extract_low (w := 8) (v := 104) _ _ (by decide)).trans ((extract_low (w := 8) (v := 96) _ _ (by decide)).trans (
      (extract_low (w := 8) (v := 88) _ _ (by decide)).trans ((extract_low (w := 8) (v := 80) _ _ (by decide)).trans (
      (extract_low (w := 8) (v := 72) _ _ (by decide)).trans ((extract_low (w := 8) (v := 64) _ _ (by decide)).trans (
      (extract_low (w := 8) (v := 56) _ _ (by decide)).trans ((extract_low (w := 8) (v := 48) _ _ (by decide)).trans (
      (extract_low (w := 8) (v := 40) _ _ (by decide)).trans ((extract_low (w := 8) (v := 32) _ _ (by decide)).trans (
      extract_high (w := 8) (v := 24) _ _))))))))))))
  · exact (extract_low (w := 8) (v := 120) _ _ (by decide)).trans ((extract_low (w := 8) (v := 112) _ _ (by decide)).trans (
      (extract_low (w := 8) (v := 104) _ _ (by decide)).trans ((extract_low (w := 8) (v := 96) _ _ (by decide)).trans (
      (extract_low (w := 8) (v := 88) _ _ (by decide)).trans ((extract_low (w := 8) (v := 80) _ _ (by decide)).trans (
      (extract_low (w := 8) (v := 72) _ _ (by decide)).trans ((extract_low (w := 8) (v := 64) _ _ (by decide)).trans (
      (extract_low (w := 8) (v := 56) _ _ (by decide)).trans ((extract_low (w := 8) (v := 48) _ _ (by decide)).trans (
      (extract_low (w := 8) (v := 40) _ _ (by decide)).trans ((extract_low (w := 8) (v := 32) _ _ (by decide)).trans (
      (extract_low (w := 8) (v := 24) _ _ (by decide)).trans (extract_high (w := 8) (v := 16) _ _)))))))))))))
  · exact (extract_low (w := 8) (v := 120) _ _ (by decide)).trans ((extract_low (w := 8) (v := 112) _ _ (by decide)).trans (
      (extract_low (w := 8) (v := 104) _ _ (by decide)).trans ((extract_low (w := 8) (v := 96) _ _ (by decide)).trans (
      (extract_low (w := 8) (v := 88) _ _ (by decide)).trans ((extract_low (w := 8) (v := 80) _ _ (by decide)).trans (
      (extract_low (w := 8) (v := 72) _ _ (by decide)).trans ((extract_low (w := 8) (v := 64) _ _ (by decide)).trans (
      (extract_low (w := 8) (v := 56) _ _ (by decide)).trans ((extract_low (w := 8) (v := 48) _ _ (by decide)).trans (
      (extract_low (w := 8) (v := 40) _ _ (by decide)).trans ((extract_low (w := 8) (v := 32) _ _ (by decide)).trans (
      (extract_low (w := 8) (v := 24) _ _ (by decide)).trans ((extract_low (w := 8) (v := 16) _ _ (by decide)).trans (
      extract_high (w := 8) (v := 8) _ _))))))))))))))
  · exact (extract_low (w := 8) (v := 120) _ _ (by decide)).trans ((extract_low (w := 8) (v := 112) _ _ (by decide)).trans (
      (extract_low (w := 8) (v := 104) _ _ (by decide)).trans ((extract_low (w := 8) (v := 96) _ _ (by decide)).trans (
      (extract_low (w := 8) (v := 88) _ _ (by decide)).trans ((extract_low (w := 8) (v := 80) _ _ (by decide)).trans (
      (extract_low (w := 8) (v := 72) _ _ (by decide)).trans ((extract_low (w := 8) (v := 64) _ _ (by decide)).trans (
      (extract_low (w := 8) (v := 56) _ _ (by decide)).trans ((extract_low (w := 8) (v := 48) _ _ (by decide)).trans (
      (extract_low (w := 8) (v := 40) _ _ (by decide)).trans ((extract_low (w := 8) (v := 32) _ _ (by decide)).trans (
      (extract_low (w := 8) (v := 24) _ _ (by decide)).trans ((extract_low (w := 8) (v := 16) _ _ (by decide)).trans (
      (extract_low (w := 8) (v := 8) _ _ (by decide)).trans (extract_all _)))))))))))))))

theorem hw_ofHalfs (f : Nat → Half) (j : Nat) (h : j < 8) : hw (ofHalfs f) j = f j := by
  interval_cases j
  · exact extract_high (w := 16) (v := 112) _ _
  · exact (extract_low (w := 16) (v := 112) _ _ (by decide)).trans (extract_high (w := 16) (v := 96) _ _)
  · exact (extract_low (w := 16) (v := 112) _ _ (by decide)).trans ((extract_low (w := 16) (v := 96) _ _ (by decide)).trans (
      extract_high (w := 16) (v := 80) _ _))
  · exact (extract_low (w := 16) (v := 112) _ _ (by decide)).trans ((extract_low (w := 16) (v := 96) _ _ (by decide)).trans (
      (extract_low (w := 16) (v := 80) _ _ (by decide)).trans (extract_high (w := 16) (v := 64) _ _)))
  · exact (extract_low (w := 16) (v := 112) _ _ (by decide)).trans ((extract_low (w := 16) (v := 96) _ _ (by decide)).trans (
      (extract_low (w := 16) (v := 80) _ _ (by decide)).trans ((extract_low (w := 16) (v := 64) _ _ (by decide)).trans (
      extract_high (w := 16) (v := 48) _ _))))
  · exact (extract_low (w := 16) (v := 112) _ _ (by decide)).trans ((extract_low (w := 16) (v := 96) _ _ (by decide)).trans (
      (extract_low (w := 16) (v := 80) _ _ (by decide)).trans ((extract_low (w := 16) (v := 64) _ _ (by decide)).trans (
      (extract_low (w := 16) (v := 48) _ _ (by decide)).trans (extract_high (w := 16) (v := 32) _ _)))))
  · exact (extract_low (w := 16) (v := 112) _ _ (by decide)).trans ((extract_low (w := 16) (v := 96) _ _ (by decide)).trans (
      (extract_low (w := 16) (v := 80) _ _ (by decide)).trans ((extract_low (w := 16) (v := 64) _ _ (by decide)).trans (
      (extract_low (w := 16) (v := 48) _ _ (by decide)).trans ((extract_low (w := 16) (v := 32) _ _ (by decide)).trans (
      extract_high (w := 16) (v := 16) _ _))))))
  · exact (extract_low (w := 16) (v := 112) _ _ (by decide)).trans ((extract_low (w := 16) (v := 96) _ _ (by decide)).trans (
      (extract_low (w := 16) (v := 80) _ _ (by decide)).trans ((extract_low (w := 16) (v := 64) _ _ (by decide)).trans (
      (extract_low (w := 16) (v := 48) _ _ (by decide)).trans ((extract_low (w := 16) (v := 32) _ _ (by decide)).trans (
      (extract_low (w := 16) (v := 16) _ _ (by decide)).trans (extract_all _)))))))

theorem word_ofWords (f : Nat → Word) (j : Nat) (h : j < 4) : word (ofWords f) j = f j := by
  interval_cases j
  · exact extract_high (w := 32) (v := 96) _ _
  · exact (extract_low (w := 32) (v := 96) _ _ (by decide)).trans (extract_high (w := 32) (v := 64) _ _)
  · exact (extract_low (w := 32) (v := 96) _ _ (by decide)).trans ((extract_low (w := 32) (v := 64) _ _ (by decide)).trans (
      extract_high (w := 32) (v := 32) _ _))
  · exact (extract_low (w := 32) (v := 96) _ _ (by decide)).trans ((extract_low (w := 32) (v := 64) _ _ (by decide)).trans (
      (extract_low (w := 32) (v := 32) _ _ (by decide)).trans (extract_all _)))

theorem dword_ofDwords (f : Nat → Dword) (j : Nat) (h : j < 2) : dword (ofDwords f) j = f j := by
  interval_cases j
  · exact extract_high (w := 64) (v := 64) _ _
  · exact (extract_low (w := 64) (v := 64) _ _ (by decide)).trans (extract_all _)

@[simp] theorem pref_prefQuad (v : Word) : pref (prefQuad v) = v := extract_high (w := 32) (v := 96) _ _

theorem word_prefQuad (v : Word) (j : Nat) (h : 0 < j) (h4 : j < 4) : word (prefQuad v) j = 0#32 := by
  have hj : (96 - 32 * j) + 32 ≤ 96 := by omega
  refine (extract_low (w := 32) (v := 96) v 0#96 hj).trans ?_
  simp

/-- Two registers with equal words are equal. -/
theorem quad_ext_words {p q : Quad} (h : ∀ j < 4, word p j = word q j) : p = q := by
  apply BitVec.eq_of_getLsbD_eq
  intro i hi
  have hj : 3 - i / 32 < 4 := by omega
  have e := congrArg (fun x : Word => x.getLsbD (i % 32)) (h (3 - i / 32) hj)
  have hm : i % 32 < 32 := Nat.mod_lt _ (by decide)
  have hp : 96 - 32 * (3 - i / 32) + i % 32 = i := by omega
  simpa [word, BitVec.getLsbD_extractLsb', hm, hp] using e

/-- Two registers with equal bytes are equal. -/
theorem quad_ext_bytes {p q : Quad} (h : ∀ j < 16, byte p j = byte q j) : p = q := by
  apply BitVec.eq_of_getLsbD_eq
  intro i hi
  have hj : 15 - i / 8 < 16 := by omega
  have e := congrArg (fun x : Byte => x.getLsbD (i % 8)) (h (15 - i / 8) hj)
  have hm : i % 8 < 8 := Nat.mod_lt _ (by decide)
  have hp : 120 - 8 * (15 - i / 8) + i % 8 = i := by omega
  simpa [byte, BitVec.getLsbD_extractLsb', hm, hp] using e

theorem ofBytes_byte (q : Quad) : ofBytes (byte q) = q :=
  quad_ext_bytes fun j h => byte_ofBytes _ j h

theorem ofWords_word (q : Quad) : ofWords (word q) = q :=
  quad_ext_words fun j h => word_ofWords _ j h

/-- A register put together from slots depends on its slots alone. -/
theorem ofBytes_congr {f g : Nat → Byte} (h : ∀ j < 16, f j = g j) : ofBytes f = ofBytes g :=
  quad_ext_bytes fun j hj => by rw [byte_ofBytes _ j hj, byte_ofBytes _ j hj, h j hj]

/-- Byte `i` of word `j`. -/
theorem byte_of_word (q : Quad) (i j : Nat) (hj : j < 4) (hi : i < 4) :
    (word q j).extractLsb' (24 - 8 * i) 8 = byte q (4 * j + i) := by
  unfold word byte
  rw [extract_extract _ (by omega)]
  congr 1
  omega

/-- Halfword `i` of word `j`. -/
theorem half_of_word (q : Quad) (i j : Nat) (hj : j < 4) (hi : i < 2) :
    (word q j).extractLsb' (16 - 16 * i) 16 = hw q (2 * j + i) := by
  unfold word hw
  rw [extract_extract _ (by omega)]
  congr 1
  omega

/-- Word `i` of doubleword `j`. -/
theorem word_of_dword (q : Quad) (i j : Nat) (hj : j < 2) (hi : i < 2) :
    (dword q j).extractLsb' (32 - 32 * i) 32 = word q (2 * j + i) := by
  unfold word dword
  rw [extract_extract _ (by omega)]
  congr 1
  omega

end Sys2Proof.Machine
end

