-- ==== Sys2Proof/Laws/State.lean ====
section
/-!
SUPPORT. One lemma per field per update of the state, so that no later proof unfolds a record update.
-/

set_option Elab.async false

namespace Sys2Proof.Machine

@[simp] theorem State.setReg_gpr (s : State) (r : Reg) (v : Quad) : (s.setReg r v).gpr = s.gpr.set r.toNat v := rfl
@[simp] theorem State.setReg_pc (s : State) (r : Reg) (v : Quad) : (s.setReg r v).pc = s.pc := rfl
@[simp] theorem State.setReg_ls (s : State) (r : Reg) (v : Quad) : (s.setReg r v).ls = s.ls := rfl
@[simp] theorem State.setReg_lslr (s : State) (r : Reg) (v : Quad) : (s.setReg r v).lslr = s.lslr := rfl
@[simp] theorem State.setReg_fpscr (s : State) (r : Reg) (v : Quad) : (s.setReg r v).fpscr = s.fpscr := rfl
@[simp] theorem State.setReg_srr0 (s : State) (r : Reg) (v : Quad) : (s.setReg r v).srr0 = s.srr0 := rfl
@[simp] theorem State.setReg_srr0Pending (s : State) (r : Reg) (v : Quad) :
    (s.setReg r v).srr0Pending = s.srr0Pending := rfl
@[simp] theorem State.setReg_ie (s : State) (r : Reg) (v : Quad) : (s.setReg r v).ie = s.ie := rfl
@[simp] theorem State.setReg_spr (s : State) (r : Reg) (v : Quad) : (s.setReg r v).spr = s.spr := rfl
@[simp] theorem State.setReg_chan (s : State) (r : Reg) (v : Quad) : (s.setReg r v).chan = s.chan := rfl
@[simp] theorem State.setReg_run (s : State) (r : Reg) (v : Quad) : (s.setReg r v).run = s.run := rfl
@[simp] theorem State.setReg_wait (s : State) (r : Reg) (v : Quad) : (s.setReg r v).wait = s.wait := rfl
@[simp] theorem State.setReg_dataHist (s : State) (r : Reg) (v : Quad) : (s.setReg r v).dataHist = s.dataHist := rfl
@[simp] theorem State.setReg_fetchHist (s : State) (r : Reg) (v : Quad) :
    (s.setReg r v).fetchHist = s.fetchHist := rfl
@[simp] theorem State.setReg_extCond (s : State) (r : Reg) (v : Quad) : (s.setReg r v).extCond = s.extCond := rfl
@[simp] theorem State.setReg_devices (s : State) (r : Reg) (v : Quad) : (s.setReg r v).devices = s.devices := rfl
@[simp] theorem State.setReg_free (s : State) (r : Reg) (v : Quad) : (s.setReg r v).free = s.free := rfl
@[simp] theorem State.setReg_cfg (s : State) (r : Reg) (v : Quad) : (s.setReg r v).cfg = s.cfg := rfl

@[simp] theorem State.advance_gpr (s : State) : (s.advance).gpr = s.gpr := rfl
@[simp] theorem State.advance_pc (s : State) : (s.advance).pc = s.nextPc := rfl
@[simp] theorem State.advance_ls (s : State) : (s.advance).ls = s.ls := rfl
@[simp] theorem State.advance_lslr (s : State) : (s.advance).lslr = s.lslr := rfl
@[simp] theorem State.advance_fpscr (s : State) : (s.advance).fpscr = s.fpscr := rfl
@[simp] theorem State.advance_srr0 (s : State) : (s.advance).srr0 = s.srr0 := rfl
@[simp] theorem State.advance_srr0Pending (s : State) : (s.advance).srr0Pending = s.srr0Pending := rfl
@[simp] theorem State.advance_ie (s : State) : (s.advance).ie = s.ie := rfl
@[simp] theorem State.advance_spr (s : State) : (s.advance).spr = s.spr := rfl
@[simp] theorem State.advance_chan (s : State) : (s.advance).chan = s.chan := rfl
@[simp] theorem State.advance_run (s : State) : (s.advance).run = s.run := rfl
@[simp] theorem State.advance_wait (s : State) : (s.advance).wait = s.wait := rfl
@[simp] theorem State.advance_dataHist (s : State) : (s.advance).dataHist = s.dataHist := rfl
@[simp] theorem State.advance_fetchHist (s : State) : (s.advance).fetchHist = s.fetchHist := rfl
@[simp] theorem State.advance_extCond (s : State) : (s.advance).extCond = s.extCond := rfl
@[simp] theorem State.advance_devices (s : State) : (s.advance).devices = s.devices := rfl
@[simp] theorem State.advance_free (s : State) : (s.advance).free = s.free := rfl
@[simp] theorem State.advance_cfg (s : State) : (s.advance).cfg = s.cfg := rfl

@[simp] theorem State.addFlags_gpr (s : State) (flags : Quad) : (s.addFlags flags).gpr = s.gpr := rfl
@[simp] theorem State.addFlags_pc (s : State) (flags : Quad) : (s.addFlags flags).pc = s.pc := rfl
@[simp] theorem State.addFlags_ls (s : State) (flags : Quad) : (s.addFlags flags).ls = s.ls := rfl
@[simp] theorem State.addFlags_lslr (s : State) (flags : Quad) : (s.addFlags flags).lslr = s.lslr := rfl
@[simp] theorem State.addFlags_fpscr (s : State) (flags : Quad) : (s.addFlags flags).fpscr = s.fpscr ||| flags := rfl
@[simp] theorem State.addFlags_srr0 (s : State) (flags : Quad) : (s.addFlags flags).srr0 = s.srr0 := rfl
@[simp] theorem State.addFlags_srr0Pending (s : State) (flags : Quad) :
    (s.addFlags flags).srr0Pending = s.srr0Pending := rfl
@[simp] theorem State.addFlags_ie (s : State) (flags : Quad) : (s.addFlags flags).ie = s.ie := rfl
@[simp] theorem State.addFlags_spr (s : State) (flags : Quad) : (s.addFlags flags).spr = s.spr := rfl
@[simp] theorem State.addFlags_chan (s : State) (flags : Quad) : (s.addFlags flags).chan = s.chan := rfl
@[simp] theorem State.addFlags_run (s : State) (flags : Quad) : (s.addFlags flags).run = s.run := rfl
@[simp] theorem State.addFlags_wait (s : State) (flags : Quad) : (s.addFlags flags).wait = s.wait := rfl
@[simp] theorem State.addFlags_dataHist (s : State) (flags : Quad) : (s.addFlags flags).dataHist = s.dataHist := rfl
@[simp] theorem State.addFlags_fetchHist (s : State) (flags : Quad) :
    (s.addFlags flags).fetchHist = s.fetchHist := rfl
@[simp] theorem State.addFlags_extCond (s : State) (flags : Quad) : (s.addFlags flags).extCond = s.extCond := rfl
@[simp] theorem State.addFlags_devices (s : State) (flags : Quad) : (s.addFlags flags).devices = s.devices := rfl
@[simp] theorem State.addFlags_free (s : State) (flags : Quad) : (s.addFlags flags).free = s.free := rfl
@[simp] theorem State.addFlags_cfg (s : State) (flags : Quad) : (s.addFlags flags).cfg = s.cfg := rfl

@[simp] theorem State.takeFree_gpr (s : State) : (s.takeFree).gpr = s.gpr := rfl
@[simp] theorem State.takeFree_pc (s : State) : (s.takeFree).pc = s.pc := rfl
@[simp] theorem State.takeFree_ls (s : State) : (s.takeFree).ls = s.ls := rfl
@[simp] theorem State.takeFree_lslr (s : State) : (s.takeFree).lslr = s.lslr := rfl
@[simp] theorem State.takeFree_fpscr (s : State) : (s.takeFree).fpscr = s.fpscr := rfl
@[simp] theorem State.takeFree_srr0 (s : State) : (s.takeFree).srr0 = s.srr0 := rfl
@[simp] theorem State.takeFree_srr0Pending (s : State) : (s.takeFree).srr0Pending = s.srr0Pending := rfl
@[simp] theorem State.takeFree_ie (s : State) : (s.takeFree).ie = s.ie := rfl
@[simp] theorem State.takeFree_spr (s : State) : (s.takeFree).spr = s.spr := rfl
@[simp] theorem State.takeFree_chan (s : State) : (s.takeFree).chan = s.chan := rfl
@[simp] theorem State.takeFree_run (s : State) : (s.takeFree).run = s.run := rfl
@[simp] theorem State.takeFree_wait (s : State) : (s.takeFree).wait = s.wait := rfl
@[simp] theorem State.takeFree_dataHist (s : State) : (s.takeFree).dataHist = s.dataHist := rfl
@[simp] theorem State.takeFree_fetchHist (s : State) : (s.takeFree).fetchHist = s.fetchHist := rfl
@[simp] theorem State.takeFree_extCond (s : State) : (s.takeFree).extCond = s.extCond := rfl
@[simp] theorem State.takeFree_devices (s : State) : (s.takeFree).devices = s.devices := rfl
@[simp] theorem State.takeFree_free (s : State) : (s.takeFree).free = s.free + 1 := rfl
@[simp] theorem State.takeFree_cfg (s : State) : (s.takeFree).cfg = s.cfg := rfl

@[simp] theorem State.performWrite_gpr (s : State) (w : Writer) (a : Nat) (m : Memory) :
    (s.performWrite w a m).gpr = s.gpr := rfl
@[simp] theorem State.performWrite_pc (s : State) (w : Writer) (a : Nat) (m : Memory) :
    (s.performWrite w a m).pc = s.pc := rfl
@[simp] theorem State.performWrite_ls (s : State) (w : Writer) (a : Nat) (m : Memory) :
    (s.performWrite w a m).ls = m := rfl
@[simp] theorem State.performWrite_lslr (s : State) (w : Writer) (a : Nat) (m : Memory) :
    (s.performWrite w a m).lslr = s.lslr := rfl
@[simp] theorem State.performWrite_fpscr (s : State) (w : Writer) (a : Nat) (m : Memory) :
    (s.performWrite w a m).fpscr = s.fpscr := rfl
@[simp] theorem State.performWrite_srr0 (s : State) (w : Writer) (a : Nat) (m : Memory) :
    (s.performWrite w a m).srr0 = s.srr0 := rfl
@[simp] theorem State.performWrite_srr0Pending (s : State) (w : Writer) (a : Nat) (m : Memory) :
    (s.performWrite w a m).srr0Pending = s.srr0Pending := rfl
@[simp] theorem State.performWrite_ie (s : State) (w : Writer) (a : Nat) (m : Memory) :
    (s.performWrite w a m).ie = s.ie := rfl
@[simp] theorem State.performWrite_spr (s : State) (w : Writer) (a : Nat) (m : Memory) :
    (s.performWrite w a m).spr = s.spr := rfl
@[simp] theorem State.performWrite_chan (s : State) (w : Writer) (a : Nat) (m : Memory) :
    (s.performWrite w a m).chan = s.chan := rfl
@[simp] theorem State.performWrite_run (s : State) (w : Writer) (a : Nat) (m : Memory) :
    (s.performWrite w a m).run = s.run := rfl
@[simp] theorem State.performWrite_wait (s : State) (w : Writer) (a : Nat) (m : Memory) :
    (s.performWrite w a m).wait = s.wait := rfl
@[simp] theorem State.performWrite_dataHist (s : State) (w : Writer) (a : Nat) (m : Memory) :
    (s.performWrite w a m).dataHist = ⟨a, s.ls.quadAt a, w⟩ :: s.dataHist := rfl
@[simp] theorem State.performWrite_fetchHist (s : State) (w : Writer) (a : Nat) (m : Memory) :
    (s.performWrite w a m).fetchHist = staleWords s.ls m a ++ s.fetchHist := rfl
@[simp] theorem State.performWrite_extCond (s : State) (w : Writer) (a : Nat) (m : Memory) :
    (s.performWrite w a m).extCond = s.extCond := rfl
@[simp] theorem State.performWrite_devices (s : State) (w : Writer) (a : Nat) (m : Memory) :
    (s.performWrite w a m).devices = s.devices := rfl
@[simp] theorem State.performWrite_free (s : State) (w : Writer) (a : Nat) (m : Memory) :
    (s.performWrite w a m).free = s.free := rfl
@[simp] theorem State.performWrite_cfg (s : State) (w : Writer) (a : Nat) (m : Memory) :
    (s.performWrite w a m).cfg = s.cfg := rfl
@[simp] theorem State.store_ls (s : State) (ea : Word) (v : Quad) :
    (s.store ea v).ls = s.ls.writeQuad (lsa s.lslr ea).toNat v := State.performWrite_ls ..
@[simp] theorem State.store_dataHist (s : State) (ea : Word) (v : Quad) : (s.store ea v).dataHist =
    ⟨(lsa s.lslr ea).toNat, s.ls.quadAt (lsa s.lslr ea).toNat, .spu⟩ :: s.dataHist := State.performWrite_dataHist ..
@[simp] theorem State.store_gpr (s : State) (ea : Word) (v : Quad) : (s.store ea v).gpr = s.gpr :=
  State.performWrite_gpr ..
@[simp] theorem State.store_pc (s : State) (ea : Word) (v : Quad) : (s.store ea v).pc = s.pc :=
  State.performWrite_pc ..
@[simp] theorem State.store_lslr (s : State) (ea : Word) (v : Quad) : (s.store ea v).lslr = s.lslr :=
  State.performWrite_lslr ..
@[simp] theorem State.store_fpscr (s : State) (ea : Word) (v : Quad) : (s.store ea v).fpscr = s.fpscr :=
  State.performWrite_fpscr ..
@[simp] theorem State.store_srr0 (s : State) (ea : Word) (v : Quad) : (s.store ea v).srr0 = s.srr0 :=
  State.performWrite_srr0 ..
@[simp] theorem State.store_srr0Pending (s : State) (ea : Word) (v : Quad) : (s.store ea v).srr0Pending = s.srr0Pending :=
  State.performWrite_srr0Pending ..
@[simp] theorem State.store_ie (s : State) (ea : Word) (v : Quad) : (s.store ea v).ie = s.ie :=
  State.performWrite_ie ..
@[simp] theorem State.store_spr (s : State) (ea : Word) (v : Quad) : (s.store ea v).spr = s.spr :=
  State.performWrite_spr ..
@[simp] theorem State.store_chan (s : State) (ea : Word) (v : Quad) : (s.store ea v).chan = s.chan :=
  State.performWrite_chan ..
@[simp] theorem State.store_run (s : State) (ea : Word) (v : Quad) : (s.store ea v).run = s.run :=
  State.performWrite_run ..
@[simp] theorem State.store_wait (s : State) (ea : Word) (v : Quad) : (s.store ea v).wait = s.wait :=
  State.performWrite_wait ..
@[simp] theorem State.store_extCond (s : State) (ea : Word) (v : Quad) : (s.store ea v).extCond = s.extCond :=
  State.performWrite_extCond ..
@[simp] theorem State.store_devices (s : State) (ea : Word) (v : Quad) : (s.store ea v).devices = s.devices :=
  State.performWrite_devices ..
@[simp] theorem State.store_free (s : State) (ea : Word) (v : Quad) : (s.store ea v).free = s.free :=
  State.performWrite_free ..
@[simp] theorem State.store_cfg (s : State) (ea : Word) (v : Quad) : (s.store ea v).cfg = s.cfg :=
  State.performWrite_cfg ..

@[simp] theorem State.dataSync_gpr (s : State) : (s.dataSync).gpr = s.gpr := rfl
@[simp] theorem State.dataSync_pc (s : State) : (s.dataSync).pc = s.pc := rfl
@[simp] theorem State.dataSync_ls (s : State) : (s.dataSync).ls = s.ls := rfl
@[simp] theorem State.dataSync_lslr (s : State) : (s.dataSync).lslr = s.lslr := rfl
@[simp] theorem State.dataSync_fpscr (s : State) : (s.dataSync).fpscr = s.fpscr := rfl
@[simp] theorem State.dataSync_srr0 (s : State) : (s.dataSync).srr0 = s.srr0 := rfl
@[simp] theorem State.dataSync_srr0Pending (s : State) : (s.dataSync).srr0Pending = s.srr0Pending := rfl
@[simp] theorem State.dataSync_ie (s : State) : (s.dataSync).ie = s.ie := rfl
@[simp] theorem State.dataSync_spr (s : State) : (s.dataSync).spr = s.spr := rfl
@[simp] theorem State.dataSync_chan (s : State) : (s.dataSync).chan = s.chan := rfl
@[simp] theorem State.dataSync_run (s : State) : (s.dataSync).run = s.run := rfl
@[simp] theorem State.dataSync_wait (s : State) : (s.dataSync).wait = s.wait := rfl
@[simp] theorem State.dataSync_dataHist (s : State) : (s.dataSync).dataHist = [] := rfl
@[simp] theorem State.dataSync_fetchHist (s : State) : (s.dataSync).fetchHist = s.fetchHist := rfl
@[simp] theorem State.dataSync_extCond (s : State) : (s.dataSync).extCond = s.extCond := rfl
@[simp] theorem State.dataSync_devices (s : State) : (s.dataSync).devices = s.devices := rfl
@[simp] theorem State.dataSync_free (s : State) : (s.dataSync).free = s.free := rfl
@[simp] theorem State.dataSync_cfg (s : State) : (s.dataSync).cfg = s.cfg := rfl

@[simp] theorem State.fetchSync_gpr (s : State) : (s.fetchSync).gpr = s.gpr := rfl
@[simp] theorem State.fetchSync_pc (s : State) : (s.fetchSync).pc = s.pc := rfl
@[simp] theorem State.fetchSync_ls (s : State) : (s.fetchSync).ls = s.ls := rfl
@[simp] theorem State.fetchSync_lslr (s : State) : (s.fetchSync).lslr = s.lslr := rfl
@[simp] theorem State.fetchSync_fpscr (s : State) : (s.fetchSync).fpscr = s.fpscr := rfl
@[simp] theorem State.fetchSync_srr0 (s : State) : (s.fetchSync).srr0 = s.srr0 := rfl
@[simp] theorem State.fetchSync_srr0Pending (s : State) : (s.fetchSync).srr0Pending = s.srr0Pending := rfl
@[simp] theorem State.fetchSync_ie (s : State) : (s.fetchSync).ie = s.ie := rfl
@[simp] theorem State.fetchSync_spr (s : State) : (s.fetchSync).spr = s.spr := rfl
@[simp] theorem State.fetchSync_chan (s : State) : (s.fetchSync).chan = s.chan := rfl
@[simp] theorem State.fetchSync_run (s : State) : (s.fetchSync).run = s.run := rfl
@[simp] theorem State.fetchSync_wait (s : State) : (s.fetchSync).wait = s.wait := rfl
@[simp] theorem State.fetchSync_dataHist (s : State) : (s.fetchSync).dataHist = [] := rfl
@[simp] theorem State.fetchSync_fetchHist (s : State) : (s.fetchSync).fetchHist = [] := rfl
@[simp] theorem State.fetchSync_extCond (s : State) : (s.fetchSync).extCond = s.extCond := rfl
@[simp] theorem State.fetchSync_devices (s : State) : (s.fetchSync).devices = s.devices := rfl
@[simp] theorem State.fetchSync_free (s : State) : (s.fetchSync).free = s.free := rfl
@[simp] theorem State.fetchSync_cfg (s : State) : (s.fetchSync).cfg = s.cfg := rfl

@[simp] theorem State.channelSync_gpr (s : State) : (s.channelSync).gpr = s.gpr := by
  unfold State.channelSync; split <;> rfl
@[simp] theorem State.channelSync_pc (s : State) : (s.channelSync).pc = s.pc := by
  unfold State.channelSync; split <;> rfl
@[simp] theorem State.channelSync_ls (s : State) : (s.channelSync).ls = s.ls := by
  unfold State.channelSync; split <;> rfl
@[simp] theorem State.channelSync_lslr (s : State) : (s.channelSync).lslr = s.lslr := by
  unfold State.channelSync; split <;> rfl
@[simp] theorem State.channelSync_fpscr (s : State) : (s.channelSync).fpscr = s.fpscr := by
  unfold State.channelSync; split <;> rfl
@[simp] theorem State.channelSync_srr0 (s : State) : (s.channelSync).srr0 = s.srr0Pending.getD s.srr0 := by
  unfold State.channelSync; split <;> simp_all
@[simp] theorem State.channelSync_srr0Pending (s : State) : (s.channelSync).srr0Pending = none := by
  unfold State.channelSync; split <;> simp_all
@[simp] theorem State.channelSync_ie (s : State) : (s.channelSync).ie = s.ie := by
  unfold State.channelSync; split <;> rfl
@[simp] theorem State.channelSync_spr (s : State) : (s.channelSync).spr = s.spr := by
  unfold State.channelSync; split <;> rfl
@[simp] theorem State.channelSync_chan (s : State) : (s.channelSync).chan = s.chan := by
  unfold State.channelSync; split <;> rfl
@[simp] theorem State.channelSync_run (s : State) : (s.channelSync).run = s.run := by
  unfold State.channelSync; split <;> rfl
@[simp] theorem State.channelSync_wait (s : State) : (s.channelSync).wait = s.wait := by
  unfold State.channelSync; split <;> rfl
@[simp] theorem State.channelSync_dataHist (s : State) : (s.channelSync).dataHist = s.dataHist := by
  unfold State.channelSync; split <;> rfl
@[simp] theorem State.channelSync_fetchHist (s : State) : (s.channelSync).fetchHist = s.fetchHist := by
  unfold State.channelSync; split <;> rfl
@[simp] theorem State.channelSync_extCond (s : State) : (s.channelSync).extCond = s.extCond := by
  unfold State.channelSync; split <;> rfl
@[simp] theorem State.channelSync_devices (s : State) : (s.channelSync).devices = s.devices := by
  unfold State.channelSync; split <;> rfl
@[simp] theorem State.channelSync_free (s : State) : (s.channelSync).free = s.free := by
  unfold State.channelSync; split <;> rfl
@[simp] theorem State.channelSync_cfg (s : State) : (s.channelSync).cfg = s.cfg := by
  unfold State.channelSync; split <;> rfl

@[simp] theorem State.syncC_gpr (s : State) : (s.syncC).gpr = s.gpr := by simp [State.syncC]
@[simp] theorem State.syncC_pc (s : State) : (s.syncC).pc = s.pc := by simp [State.syncC]
@[simp] theorem State.syncC_ls (s : State) : (s.syncC).ls = s.ls := by simp [State.syncC]
@[simp] theorem State.syncC_lslr (s : State) : (s.syncC).lslr = s.lslr := by simp [State.syncC]
@[simp] theorem State.syncC_fpscr (s : State) : (s.syncC).fpscr = s.fpscr := by simp [State.syncC]
@[simp] theorem State.syncC_srr0 (s : State) : (s.syncC).srr0 = s.srr0Pending.getD s.srr0 := by simp [State.syncC]
@[simp] theorem State.syncC_srr0Pending (s : State) : (s.syncC).srr0Pending = none := by simp [State.syncC]
@[simp] theorem State.syncC_ie (s : State) : (s.syncC).ie = s.ie := by simp [State.syncC]
@[simp] theorem State.syncC_spr (s : State) : (s.syncC).spr = s.spr := by simp [State.syncC]
@[simp] theorem State.syncC_chan (s : State) : (s.syncC).chan = s.chan := by simp [State.syncC]
@[simp] theorem State.syncC_run (s : State) : (s.syncC).run = s.run := by simp [State.syncC]
@[simp] theorem State.syncC_wait (s : State) : (s.syncC).wait = s.wait := by simp [State.syncC]
@[simp] theorem State.syncC_dataHist (s : State) : (s.syncC).dataHist = [] := by simp [State.syncC]
@[simp] theorem State.syncC_fetchHist (s : State) : (s.syncC).fetchHist = [] := by simp [State.syncC]
@[simp] theorem State.syncC_extCond (s : State) : (s.syncC).extCond = s.extCond := by simp [State.syncC]
@[simp] theorem State.syncC_devices (s : State) : (s.syncC).devices = s.devices := by simp [State.syncC]
@[simp] theorem State.syncC_free (s : State) : (s.syncC).free = s.free := by simp [State.syncC]
@[simp] theorem State.syncC_cfg (s : State) : (s.syncC).cfg = s.cfg := by simp [State.syncC]

@[simp] theorem State.stopWith_gpr (s : State) (ev : StopEvent) :
    (s.stopWith ev).gpr = s.gpr := by simp [State.stopWith]
@[simp] theorem State.stopWith_pc (s : State) (ev : StopEvent) : (s.stopWith ev).pc = s.pc := by simp [State.stopWith]
@[simp] theorem State.stopWith_ls (s : State) (ev : StopEvent) : (s.stopWith ev).ls = s.ls := by simp [State.stopWith]
@[simp] theorem State.stopWith_lslr (s : State) (ev : StopEvent) :
    (s.stopWith ev).lslr = s.lslr := by simp [State.stopWith]
@[simp] theorem State.stopWith_fpscr (s : State) (ev : StopEvent) :
    (s.stopWith ev).fpscr = s.fpscr := by simp [State.stopWith]
@[simp] theorem State.stopWith_srr0 (s : State) (ev : StopEvent) :
    (s.stopWith ev).srr0 = s.srr0Pending.getD s.srr0 := by simp [State.stopWith]
@[simp] theorem State.stopWith_srr0Pending (s : State) (ev : StopEvent) :
    (s.stopWith ev).srr0Pending = none := by simp [State.stopWith]
@[simp] theorem State.stopWith_ie (s : State) (ev : StopEvent) : (s.stopWith ev).ie = s.ie := by simp [State.stopWith]
@[simp] theorem State.stopWith_spr (s : State) (ev : StopEvent) :
    (s.stopWith ev).spr = s.spr := by simp [State.stopWith]
@[simp] theorem State.stopWith_chan (s : State) (ev : StopEvent) :
    (s.stopWith ev).chan = s.chan := by simp [State.stopWith]
@[simp] theorem State.stopWith_run (s : State) (ev : StopEvent) :
    (s.stopWith ev).run = .stopped ev := by simp [State.stopWith]
@[simp] theorem State.stopWith_wait (s : State) (ev : StopEvent) :
    (s.stopWith ev).wait = none := by simp [State.stopWith]
@[simp] theorem State.stopWith_dataHist (s : State) (ev : StopEvent) :
    (s.stopWith ev).dataHist = [] := by simp [State.stopWith]
@[simp] theorem State.stopWith_fetchHist (s : State) (ev : StopEvent) :
    (s.stopWith ev).fetchHist = [] := by simp [State.stopWith]
@[simp] theorem State.stopWith_extCond (s : State) (ev : StopEvent) :
    (s.stopWith ev).extCond = s.extCond := by simp [State.stopWith]
@[simp] theorem State.stopWith_devices (s : State) (ev : StopEvent) :
    (s.stopWith ev).devices = s.devices := by simp [State.stopWith]
@[simp] theorem State.stopWith_free (s : State) (ev : StopEvent) :
    (s.stopWith ev).free = s.free := by simp [State.stopWith]
@[simp] theorem State.stopWith_cfg (s : State) (ev : StopEvent) :
    (s.stopWith ev).cfg = s.cfg := by simp [State.stopWith]

@[simp] theorem State.sawSrr0_gpr (s : State) : (s.sawSrr0).gpr = s.gpr := by
  unfold State.sawSrr0; split <;> rfl
@[simp] theorem State.sawSrr0_pc (s : State) : (s.sawSrr0).pc = s.pc := by
  unfold State.sawSrr0; split <;> rfl
@[simp] theorem State.sawSrr0_ls (s : State) : (s.sawSrr0).ls = s.ls := by
  unfold State.sawSrr0; split <;> rfl
@[simp] theorem State.sawSrr0_lslr (s : State) : (s.sawSrr0).lslr = s.lslr := by
  unfold State.sawSrr0; split <;> rfl
@[simp] theorem State.sawSrr0_fpscr (s : State) : (s.sawSrr0).fpscr = s.fpscr := by
  unfold State.sawSrr0; split <;> rfl
@[simp] theorem State.sawSrr0_srr0 (s : State) : (s.sawSrr0).srr0 = s.srr0 := by
  unfold State.sawSrr0; split <;> rfl
@[simp] theorem State.sawSrr0_srr0Pending (s : State) : (s.sawSrr0).srr0Pending = s.srr0Pending := by
  unfold State.sawSrr0; split <;> rfl
@[simp] theorem State.sawSrr0_ie (s : State) : (s.sawSrr0).ie = s.ie := by
  unfold State.sawSrr0; split <;> rfl
@[simp] theorem State.sawSrr0_spr (s : State) : (s.sawSrr0).spr = s.spr := by
  unfold State.sawSrr0; split <;> rfl
@[simp] theorem State.sawSrr0_chan (s : State) : (s.sawSrr0).chan = s.chan := by
  unfold State.sawSrr0; split <;> rfl
@[simp] theorem State.sawSrr0_run (s : State) : (s.sawSrr0).run = s.run := by
  unfold State.sawSrr0; split <;> rfl
@[simp] theorem State.sawSrr0_wait (s : State) : (s.sawSrr0).wait = s.wait := by
  unfold State.sawSrr0; split <;> rfl
@[simp] theorem State.sawSrr0_dataHist (s : State) : (s.sawSrr0).dataHist = s.dataHist := by
  unfold State.sawSrr0; split <;> rfl
@[simp] theorem State.sawSrr0_fetchHist (s : State) : (s.sawSrr0).fetchHist = s.fetchHist := by
  unfold State.sawSrr0; split <;> rfl
@[simp] theorem State.sawSrr0_extCond (s : State) : (s.sawSrr0).extCond = s.extCond := by
  unfold State.sawSrr0; split <;> rfl
@[simp] theorem State.sawSrr0_devices (s : State) : (s.sawSrr0).devices = s.devices := by
  unfold State.sawSrr0; split <;> rfl
@[simp] theorem State.sawSrr0_free (s : State) :
    (s.sawSrr0).free = if s.srr0Pending = none then s.free else s.free + 1 := by
  unfold State.sawSrr0; split <;> rfl
@[simp] theorem State.sawSrr0_cfg (s : State) : (s.sawSrr0).cfg = s.cfg := by
  unfold State.sawSrr0; split <;> rfl

@[simp] theorem State.writeSpr_gpr (s : State) (sa : BitVec 7) (v : Quad) : (s.writeSpr sa v).gpr = s.gpr := by
  unfold State.writeSpr; split <;> rfl
@[simp] theorem State.writeSpr_pc (s : State) (sa : BitVec 7) (v : Quad) : (s.writeSpr sa v).pc = s.pc := by
  unfold State.writeSpr; split <;> rfl
@[simp] theorem State.writeSpr_ls (s : State) (sa : BitVec 7) (v : Quad) : (s.writeSpr sa v).ls = s.ls := by
  unfold State.writeSpr; split <;> rfl
@[simp] theorem State.writeSpr_lslr (s : State) (sa : BitVec 7) (v : Quad) : (s.writeSpr sa v).lslr = s.lslr := by
  unfold State.writeSpr; split <;> rfl
@[simp] theorem State.writeSpr_fpscr (s : State) (sa : BitVec 7) (v : Quad) : (s.writeSpr sa v).fpscr = s.fpscr := by
  unfold State.writeSpr; split <;> rfl
@[simp] theorem State.writeSpr_srr0 (s : State) (sa : BitVec 7) (v : Quad) : (s.writeSpr sa v).srr0 = s.srr0 := by
  unfold State.writeSpr; split <;> rfl
@[simp] theorem State.writeSpr_srr0Pending (s : State) (sa : BitVec 7) (v : Quad) :
    (s.writeSpr sa v).srr0Pending = s.srr0Pending := by
  unfold State.writeSpr; split <;> rfl
@[simp] theorem State.writeSpr_ie (s : State) (sa : BitVec 7) (v : Quad) : (s.writeSpr sa v).ie = s.ie := by
  unfold State.writeSpr; split <;> rfl
@[simp] theorem State.writeSpr_chan (s : State) (sa : BitVec 7) (v : Quad) : (s.writeSpr sa v).chan = s.chan := by
  unfold State.writeSpr; split <;> rfl
@[simp] theorem State.writeSpr_run (s : State) (sa : BitVec 7) (v : Quad) : (s.writeSpr sa v).run = s.run := by
  unfold State.writeSpr; split <;> rfl
@[simp] theorem State.writeSpr_wait (s : State) (sa : BitVec 7) (v : Quad) : (s.writeSpr sa v).wait = s.wait := by
  unfold State.writeSpr; split <;> rfl
@[simp] theorem State.writeSpr_dataHist (s : State) (sa : BitVec 7) (v : Quad) :
    (s.writeSpr sa v).dataHist = s.dataHist := by
  unfold State.writeSpr; split <;> rfl
@[simp] theorem State.writeSpr_fetchHist (s : State) (sa : BitVec 7) (v : Quad) :
    (s.writeSpr sa v).fetchHist = s.fetchHist := by
  unfold State.writeSpr; split <;> rfl
@[simp] theorem State.writeSpr_extCond (s : State) (sa : BitVec 7) (v : Quad) :
    (s.writeSpr sa v).extCond = s.extCond := by
  unfold State.writeSpr; split <;> rfl
@[simp] theorem State.writeSpr_devices (s : State) (sa : BitVec 7) (v : Quad) :
    (s.writeSpr sa v).devices = s.devices := by
  unfold State.writeSpr; split <;> rfl
@[simp] theorem State.writeSpr_free (s : State) (sa : BitVec 7) (v : Quad) : (s.writeSpr sa v).free = s.free := by
  unfold State.writeSpr; split <;> rfl
@[simp] theorem State.writeSpr_cfg (s : State) (sa : BitVec 7) (v : Quad) : (s.writeSpr sa v).cfg = s.cfg := by
  unfold State.writeSpr; split <;> rfl

@[simp] theorem State.block_gpr (s : State) (w : ChannelWait) : (s.block w).gpr = s.gpr := rfl
@[simp] theorem State.block_pc (s : State) (w : ChannelWait) : (s.block w).pc = s.pc := rfl
@[simp] theorem State.block_ls (s : State) (w : ChannelWait) : (s.block w).ls = s.ls := rfl
@[simp] theorem State.block_lslr (s : State) (w : ChannelWait) : (s.block w).lslr = s.lslr := rfl
@[simp] theorem State.block_fpscr (s : State) (w : ChannelWait) : (s.block w).fpscr = s.fpscr := rfl
@[simp] theorem State.block_srr0 (s : State) (w : ChannelWait) : (s.block w).srr0 = s.srr0 := rfl
@[simp] theorem State.block_srr0Pending (s : State) (w : ChannelWait) : (s.block w).srr0Pending = s.srr0Pending := rfl
@[simp] theorem State.block_ie (s : State) (w : ChannelWait) : (s.block w).ie = s.ie := rfl
@[simp] theorem State.block_spr (s : State) (w : ChannelWait) : (s.block w).spr = s.spr := rfl
@[simp] theorem State.block_chan (s : State) (w : ChannelWait) : (s.block w).chan = s.chan := rfl
@[simp] theorem State.block_run (s : State) (w : ChannelWait) : (s.block w).run = s.run := rfl
@[simp] theorem State.block_wait (s : State) (w : ChannelWait) : (s.block w).wait = some w := rfl
@[simp] theorem State.block_dataHist (s : State) (w : ChannelWait) : (s.block w).dataHist = s.dataHist := rfl
@[simp] theorem State.block_fetchHist (s : State) (w : ChannelWait) : (s.block w).fetchHist = s.fetchHist := rfl
@[simp] theorem State.block_extCond (s : State) (w : ChannelWait) : (s.block w).extCond = s.extCond := rfl
@[simp] theorem State.block_devices (s : State) (w : ChannelWait) : (s.block w).devices = s.devices := rfl
@[simp] theorem State.block_free (s : State) (w : ChannelWait) : (s.block w).free = s.free := rfl
@[simp] theorem State.block_cfg (s : State) (w : ChannelWait) : (s.block w).cfg = s.cfg := rfl

@[simp] theorem State.channelDone_gpr (s : State) : (s.channelDone).gpr = s.gpr := rfl
@[simp] theorem State.channelDone_pc (s : State) : (s.channelDone).pc = s.nextPc := rfl
@[simp] theorem State.channelDone_ls (s : State) : (s.channelDone).ls = s.ls := rfl
@[simp] theorem State.channelDone_lslr (s : State) : (s.channelDone).lslr = s.lslr := rfl
@[simp] theorem State.channelDone_fpscr (s : State) : (s.channelDone).fpscr = s.fpscr := rfl
@[simp] theorem State.channelDone_srr0 (s : State) : (s.channelDone).srr0 = s.srr0 := rfl
@[simp] theorem State.channelDone_srr0Pending (s : State) : (s.channelDone).srr0Pending = s.srr0Pending := rfl
@[simp] theorem State.channelDone_ie (s : State) : (s.channelDone).ie = s.ie := rfl
@[simp] theorem State.channelDone_spr (s : State) : (s.channelDone).spr = s.spr := rfl
@[simp] theorem State.channelDone_chan (s : State) : (s.channelDone).chan = s.chan := rfl
@[simp] theorem State.channelDone_run (s : State) : (s.channelDone).run = s.run := rfl
@[simp] theorem State.channelDone_wait (s : State) : (s.channelDone).wait = none := rfl
@[simp] theorem State.channelDone_dataHist (s : State) : (s.channelDone).dataHist = s.dataHist := rfl
@[simp] theorem State.channelDone_fetchHist (s : State) : (s.channelDone).fetchHist = s.fetchHist := rfl
@[simp] theorem State.channelDone_extCond (s : State) : (s.channelDone).extCond = s.extCond := rfl
@[simp] theorem State.channelDone_devices (s : State) : (s.channelDone).devices = s.devices := rfl
@[simp] theorem State.channelDone_free (s : State) : (s.channelDone).free = s.free := rfl
@[simp] theorem State.channelDone_cfg (s : State) : (s.channelDone).cfg = s.cfg := rfl

@[simp] theorem State.dropTurn_gpr (s : State) : (s.dropTurn).gpr = s.gpr := rfl
@[simp] theorem State.dropTurn_pc (s : State) : (s.dropTurn).pc = s.pc := rfl
@[simp] theorem State.dropTurn_ls (s : State) : (s.dropTurn).ls = s.ls := rfl
@[simp] theorem State.dropTurn_lslr (s : State) : (s.dropTurn).lslr = s.lslr := rfl
@[simp] theorem State.dropTurn_fpscr (s : State) : (s.dropTurn).fpscr = s.fpscr := rfl
@[simp] theorem State.dropTurn_srr0 (s : State) : (s.dropTurn).srr0 = s.srr0 := rfl
@[simp] theorem State.dropTurn_srr0Pending (s : State) : (s.dropTurn).srr0Pending = s.srr0Pending := rfl
@[simp] theorem State.dropTurn_ie (s : State) : (s.dropTurn).ie = s.ie := rfl
@[simp] theorem State.dropTurn_spr (s : State) : (s.dropTurn).spr = s.spr := rfl
@[simp] theorem State.dropTurn_chan (s : State) : (s.dropTurn).chan = s.chan := rfl
@[simp] theorem State.dropTurn_run (s : State) : (s.dropTurn).run = s.run := rfl
@[simp] theorem State.dropTurn_wait (s : State) : (s.dropTurn).wait = s.wait := rfl
@[simp] theorem State.dropTurn_dataHist (s : State) : (s.dropTurn).dataHist = s.dataHist := rfl
@[simp] theorem State.dropTurn_fetchHist (s : State) : (s.dropTurn).fetchHist = s.fetchHist := rfl
@[simp] theorem State.dropTurn_extCond (s : State) : (s.dropTurn).extCond = s.extCond := rfl
@[simp] theorem State.dropTurn_devices (s : State) : (s.dropTurn).devices = s.devices.tail := rfl
@[simp] theorem State.dropTurn_free (s : State) : (s.dropTurn).free = s.free := rfl
@[simp] theorem State.dropTurn_cfg (s : State) : (s.dropTurn).cfg = s.cfg := rfl

/- Reading registers. -/

@[simp] theorem State.reg_setReg_self (s : State) (r : Reg) (v : Quad) : (s.setReg r v).reg r = v := by
  simp [State.reg, State.setReg]

theorem State.reg_setReg_ne (s : State) (r r' : Reg) (v : Quad) (h : r' ≠ r) :
    (s.setReg r v).reg r' = s.reg r' := by
  have h' : r.toNat ≠ r'.toNat := fun e => h (BitVec.eq_of_toNat_eq e.symm)
  simp [State.reg, State.setReg, h']

theorem State.reg_setReg (s : State) (r r' : Reg) (v : Quad) :
    (s.setReg r v).reg r' = if r' = r then v else s.reg r' := by
  by_cases h : r' = r
  · subst h; simp
  · simp [h, State.reg_setReg_ne s r r' v h]

/-- A register reads through `gpr` alone. -/
theorem State.reg_congr {s t : State} (h : t.gpr = s.gpr) (r : Reg) : t.reg r = s.reg r := by
  simp [State.reg, h]


@[simp] theorem State.advance_reg (s : State) (r : Reg) : (s.advance).reg r = s.reg r := State.reg_congr (by simp) r
@[simp] theorem State.addFlags_reg (s : State) (flags : Quad) (r : Reg) :
    (s.addFlags flags).reg r = s.reg r := State.reg_congr (by simp) r
@[simp] theorem State.takeFree_reg (s : State) (r : Reg) : (s.takeFree).reg r = s.reg r := State.reg_congr (by simp) r
@[simp] theorem State.performWrite_reg (s : State) (w : Writer) (a : Nat) (m : Memory) (r : Reg) :
    (s.performWrite w a m).reg r = s.reg r := State.reg_congr (by simp) r
@[simp] theorem State.store_reg (s : State) (ea : Word) (v : Quad) (r : Reg) : (s.store ea v).reg r = s.reg r :=
  State.reg_congr (by simp) r
@[simp] theorem State.dataSync_reg (s : State) (r : Reg) : (s.dataSync).reg r = s.reg r := State.reg_congr (by simp) r
@[simp] theorem State.fetchSync_reg (s : State) (r : Reg) :
    (s.fetchSync).reg r = s.reg r := State.reg_congr (by simp) r
@[simp] theorem State.channelSync_reg (s : State) (r : Reg) :
    (s.channelSync).reg r = s.reg r := State.reg_congr (by simp) r
@[simp] theorem State.syncC_reg (s : State) (r : Reg) : (s.syncC).reg r = s.reg r := State.reg_congr (by simp) r
@[simp] theorem State.stopWith_reg (s : State) (ev : StopEvent) (r : Reg) :
    (s.stopWith ev).reg r = s.reg r := State.reg_congr (by simp) r
@[simp] theorem State.sawSrr0_reg (s : State) (r : Reg) : (s.sawSrr0).reg r = s.reg r := State.reg_congr (by simp) r
@[simp] theorem State.writeSpr_reg (s : State) (sa : BitVec 7) (v : Quad) (r : Reg) :
    (s.writeSpr sa v).reg r = s.reg r := State.reg_congr (by simp) r
@[simp] theorem State.block_reg (s : State) (w : ChannelWait) (r : Reg) :
    (s.block w).reg r = s.reg r := State.reg_congr (by simp) r
@[simp] theorem State.channelDone_reg (s : State) (r : Reg) :
    (s.channelDone).reg r = s.reg r := State.reg_congr (by simp) r
@[simp] theorem State.dropTurn_reg (s : State) (r : Reg) : (s.dropTurn).reg r = s.reg r := State.reg_congr (by simp) r

end Sys2Proof.Machine
end

