-- ==== Sys2Proof/Laws/Channel.lean ====
section
/-!
SUPPORT. What the channel operations can do, said once: every case, with the conditions under which it is taken.
-/

set_option Elab.async false

namespace Sys2Proof.Machine

/-- `readChannel`: SRR0's channel, an invalid channel, a datum taken, or a wait. -/
theorem State.readChannel_cases (s : State) (rt : Reg) (ca : BitVec 7) :
    (ca = rdSrr0 ∧ s.readChannel rt ca = (s.sawSrr0.setReg rt (prefQuad s.srr0Value)).channelDone) ∨
    ((ca = wrSrr0 ∨ ca ≠ rdSrr0 ∧ ∀ c, s.chan[ca.toNat] = some c → c.dir = .write) ∧
      s.readChannel rt ca = s.stopWith (.invalidChannel s.pc ca)) ∨
    (∃ c n d ds, ca ≠ rdSrr0 ∧ ca ≠ wrSrr0 ∧ s.chan[ca.toNat] = some c ∧ c.dir = .read ∧ c.count = n + 1 ∧
      c.queue = d :: ds ∧ s.readChannel rt ca =
        ({ s with chan := s.chan.set ca.toNat (some { c with count := n, queue := ds }) }.setReg rt
          (c.width.narrow d)).channelDone) ∨
    (∃ c, ca ≠ rdSrr0 ∧ ca ≠ wrSrr0 ∧ s.chan[ca.toNat] = some c ∧ c.dir = .read ∧
      (c.count = 0 ∨ c.queue = []) ∧ s.readChannel rt ca = s.block (.read rt ca)) := by
  unfold State.readChannel State.invalidChannel
  by_cases h1 : ca = rdSrr0
  · exact .inl ⟨h1, if_pos h1⟩
  by_cases h2 : ca = wrSrr0
  · exact .inr (.inl ⟨.inl h2, by rw [if_neg h1, if_pos h2]⟩)
  rw [if_neg h1, if_neg h2]
  match hc : s.chan[ca.toNat] with
  | none => exact .inr (.inl ⟨.inr ⟨h1, nofun⟩, rfl⟩)
  | some c =>
    obtain ⟨dir, width, capacity, count, queue⟩ := c
    match dir with
    | .write => exact .inr (.inl ⟨.inr ⟨h1, fun c h => by cases h; rfl⟩, rfl⟩)
    | .read =>
      match count, queue with
      | 0, _ => exact .inr (.inr (.inr ⟨_, h1, h2, rfl, rfl, .inl rfl, rfl⟩))
      | n + 1, [] => exact .inr (.inr (.inr ⟨_, h1, h2, rfl, rfl, .inr rfl, rfl⟩))
      | n + 1, d :: ds => exact .inr (.inr (.inl ⟨_, n, d, ds, h1, h2, rfl, rfl, rfl, rfl, rfl⟩))

/-- `writeChannel`: SRR0's channel, an invalid channel, a datum put, or a wait. -/
theorem State.writeChannel_cases (s : State) (ca : BitVec 7) (rt : Reg) :
    (ca = wrSrr0 ∧ s.writeChannel ca rt = { s with srr0Pending := some (pref (s.reg rt)) }.channelDone) ∨
    ((ca = rdSrr0 ∨ ca ≠ wrSrr0 ∧ ∀ c, s.chan[ca.toNat] = some c → c.dir = .read) ∧
      s.writeChannel ca rt = s.stopWith (.invalidChannel s.pc ca)) ∨
    (∃ c n, ca ≠ rdSrr0 ∧ ca ≠ wrSrr0 ∧ s.chan[ca.toNat] = some c ∧ c.dir = .write ∧ c.count = n + 1 ∧
      s.writeChannel ca rt = { s with chan := s.chan.set ca.toNat (some { c with
        count := n
        queue := c.queue ++ [c.width.narrow (s.reg rt)] }) }.channelDone) ∨
    (∃ c, ca ≠ rdSrr0 ∧ ca ≠ wrSrr0 ∧ s.chan[ca.toNat] = some c ∧ c.dir = .write ∧ c.count = 0 ∧
      s.writeChannel ca rt = s.block (.write ca rt)) := by
  unfold State.writeChannel State.invalidChannel
  by_cases h1 : ca = wrSrr0
  · exact .inl ⟨h1, if_pos h1⟩
  by_cases h2 : ca = rdSrr0
  · exact .inr (.inl ⟨.inl h2, by rw [if_neg h1, if_pos h2]⟩)
  rw [if_neg h1, if_neg h2]
  match hc : s.chan[ca.toNat] with
  | none => exact .inr (.inl ⟨.inr ⟨h1, nofun⟩, rfl⟩)
  | some c =>
    obtain ⟨dir, width, capacity, count, queue⟩ := c
    match dir with
    | .read => exact .inr (.inl ⟨.inr ⟨h1, fun c h => by cases h; rfl⟩, rfl⟩)
    | .write =>
      match count with
      | 0 => exact .inr (.inr (.inr ⟨_, h2, h1, rfl, rfl, rfl, rfl⟩))
      | n + 1 => exact .inr (.inr (.inl ⟨_, n, h2, h1, rfl, rfl, rfl, rfl⟩))

/-- The value a 32-bit channel carries is the preferred slot with zeros beside it; narrowing twice is narrowing. -/
theorem Width.narrow_narrow (w : Width) (v : Quad) : w.narrow (w.narrow v) = w.narrow v := by
  cases w
  · simp [Width.narrow]
  · rfl

end Sys2Proof.Machine
end

