-- ==== Sys2Proof/Laws/Decode.lean ====
section
/-!
SUPPORT. The opcode table has no two rows for one word; what a row's word decodes to; the fields of the layouts.
-/

set_option Elab.async false

namespace Sys2Proof

/-- No opcode of the table begins with another (R105): told of the numbers alone. -/
theorem rows_no_common_word : rows.Pairwise fun r q =>
    r.opcode >>> (r.bits - q.bits) ≠ q.opcode >>> (q.bits - r.bits) := by decide +kernel

/-- Every opcode has 4 to 11 bits. -/
theorem rows_bits : ∀ r ∈ rows, 4 ≤ r.bits ∧ r.bits ≤ 11 := by decide +kernel

theorem Row.matches_iff (r : Row) (w : Word) : r.matches w = true ↔ w.toNat >>> (32 - r.bits) = r.opcode := by
  simp [Row.matches]

/-- Two rows that match one word have opcodes one of which begins with the other. -/
theorem Row.common_word (r q : Row) (w : Word) (hr : r.matches w = true) (hq : q.matches w = true)
    (hr32 : r.bits ≤ 32) (hq32 : q.bits ≤ 32) :
    r.opcode >>> (r.bits - q.bits) = q.opcode >>> (q.bits - r.bits) := by
  rw [Row.matches_iff] at hr hq
  rw [← hr, ← hq, ← Nat.shiftRight_add, ← Nat.shiftRight_add]
  congr 1
  omega

theorem find_of_pairwise {l : List Row} (w : Word) (hb : ∀ r ∈ l, 4 ≤ r.bits ∧ r.bits ≤ 11)
    (hp : l.Pairwise fun r q => r.opcode >>> (r.bits - q.bits) ≠ q.opcode >>> (q.bits - r.bits))
    (r : Row) (hr : r ∈ l) (hm : r.matches w = true) : l.find? (·.matches w) = some r := by
  induction l with
  | nil => cases hr
  | cons q l ih =>
    have hp' := List.pairwise_cons.mp hp
    by_cases hq : q.matches w = true
    · rcases List.mem_cons.mp hr with rfl | hr
      · simp [hq]
      · have h1 := hb q (by simp)
        have h2 := hb r (by simp [hr])
        exact absurd (Row.common_word q r w hq hm (by omega) (by omega)) (hp'.1 r hr)
    · rcases List.mem_cons.mp hr with rfl | hr
      · exact absurd hm hq
      · simp only [List.find?_cons, hq]
        exact ih (fun x hx => hb x (by simp [hx])) hp'.2 hr

/-- A word that a row of the table matches decodes by that row. -/
theorem decode_of_row (r : Row) (w : Word) (hr : r ∈ rows) (hm : r.matches w = true) :
    decode w = .ok (r.build w) := by
  unfold decode
  rw [find_of_pairwise w rows_bits rows_no_common_word r hr hm]

/-- A word that no row matches is unassigned (R105). -/
theorem decode_of_no_row (w : Word) (h : ∀ r ∈ rows, r.matches w = false) : decode w = .error (.unassigned w) := by
  unfold decode
  rw [List.find?_eq_none.mpr fun r hr => by simp [h r hr]]

/- The leading bits and the fields of a word put together from fields. -/

theorem append_shiftRight {n m : Nat} (op : BitVec n) (x : BitVec m) : (op ++ x).toNat >>> m = op.toNat := by
  rw [BitVec.toNat_append, Nat.shiftRight_or_distrib, Nat.shiftLeft_shiftRight, Nat.shiftRight_eq_div_pow,
    Nat.div_eq_of_lt x.isLt, Nat.or_zero]

theorem field_high {w v : Nat} (x : BitVec w) (y : BitVec v) : (x ++ y).extractLsb' v w = x := by
  apply BitVec.eq_of_getLsbD_eq
  intro i hi
  simp [BitVec.getLsbD_append, hi]

theorem field_low {w v k n : Nat} (x : BitVec w) (y : BitVec v) (h : k + n ≤ v) :
    (x ++ y).extractLsb' k n = y.extractLsb' k n := by
  apply BitVec.eq_of_getLsbD_eq
  intro i hi
  have : k + i < v := by omega
  simp [BitVec.getLsbD_append, this]

theorem field_all {w : Nat} (x : BitVec w) : x.extractLsb' 0 w = x := by simp

theorem bit_low {w v k : Nat} (x : BitVec w) (y : BitVec v) (h : k < v) : (x ++ y).getLsbD k = y.getLsbD k := by
  simp [BitVec.getLsbD_append, h]

theorem bit_high {v : Nat} (b : Bool) (y : BitVec v) : (BitVec.ofBool b ++ y).getLsbD v = b := by
  rw [BitVec.getLsbD_append]
  cases b <;> simp

theorem formRR_op (op : BitVec 11) (rb ra rt : BitVec 7) : (formRR op rb ra rt).toNat >>> 21 = op.toNat :=
  append_shiftRight (n := 11) (m := 21) _ _
@[simp] theorem fRB_formRR (op : BitVec 11) (rb ra rt : BitVec 7) : fRB (formRR op rb ra rt) = rb :=
  (field_low (w := 11) (v := 21) _ _ (by decide)).trans
    (field_high (w := 7) (v := 14) _ _)
@[simp] theorem fI7_formRR (op : BitVec 11) (rb ra rt : BitVec 7) : fI7 (formRR op rb ra rt) = rb :=
  (field_low (w := 11) (v := 21) _ _ (by decide)).trans
    (field_high (w := 7) (v := 14) _ _)
@[simp] theorem fRA_formRR (op : BitVec 11) (rb ra rt : BitVec 7) : fRA (formRR op rb ra rt) = ra :=
  (field_low (w := 11) (v := 21) _ _ (by decide)).trans
    ((field_low (w := 7) (v := 14) _ _ (by decide)).trans
    (field_high (w := 7) (v := 7) _ _))
@[simp] theorem fSA_formRR (op : BitVec 11) (rb ra rt : BitVec 7) : fSA (formRR op rb ra rt) = ra :=
  (field_low (w := 11) (v := 21) _ _ (by decide)).trans
    ((field_low (w := 7) (v := 14) _ _ (by decide)).trans
    (field_high (w := 7) (v := 7) _ _))
@[simp] theorem fCA_formRR (op : BitVec 11) (rb ra rt : BitVec 7) : fCA (formRR op rb ra rt) = ra :=
  (field_low (w := 11) (v := 21) _ _ (by decide)).trans
    ((field_low (w := 7) (v := 14) _ _ (by decide)).trans
    (field_high (w := 7) (v := 7) _ _))
@[simp] theorem fRT_formRR (op : BitVec 11) (rb ra rt : BitVec 7) : fRT (formRR op rb ra rt) = rt :=
  (field_low (w := 11) (v := 21) _ _ (by decide)).trans
    ((field_low (w := 7) (v := 14) _ _ (by decide)).trans
    ((field_low (w := 7) (v := 7) _ _ (by decide)).trans
    (field_all _)))
theorem formRRR_op (op : BitVec 4) (rt rb ra rc : BitVec 7) : (formRRR op rt rb ra rc).toNat >>> 28 = op.toNat :=
  append_shiftRight (n := 4) (m := 28) _ _
@[simp] theorem fRT4_formRRR (op : BitVec 4) (rt rb ra rc : BitVec 7) : fRT4 (formRRR op rt rb ra rc) = rt :=
  (field_low (w := 4) (v := 28) _ _ (by decide)).trans
    (field_high (w := 7) (v := 21) _ _)
@[simp] theorem fRB_formRRR (op : BitVec 4) (rt rb ra rc : BitVec 7) : fRB (formRRR op rt rb ra rc) = rb :=
  (field_low (w := 4) (v := 28) _ _ (by decide)).trans
    ((field_low (w := 7) (v := 21) _ _ (by decide)).trans
    (field_high (w := 7) (v := 14) _ _))
@[simp] theorem fRA_formRRR (op : BitVec 4) (rt rb ra rc : BitVec 7) : fRA (formRRR op rt rb ra rc) = ra :=
  (field_low (w := 4) (v := 28) _ _ (by decide)).trans
    ((field_low (w := 7) (v := 21) _ _ (by decide)).trans
    ((field_low (w := 7) (v := 14) _ _ (by decide)).trans
    (field_high (w := 7) (v := 7) _ _)))
@[simp] theorem fRC_formRRR (op : BitVec 4) (rt rb ra rc : BitVec 7) : fRC (formRRR op rt rb ra rc) = rc :=
  (field_low (w := 4) (v := 28) _ _ (by decide)).trans
    ((field_low (w := 7) (v := 21) _ _ (by decide)).trans
    ((field_low (w := 7) (v := 14) _ _ (by decide)).trans
    ((field_low (w := 7) (v := 7) _ _ (by decide)).trans
    (field_all _))))
theorem formRI8_op (op : BitVec 10) (i8 : BitVec 8) (ra rt : BitVec 7) : (formRI8 op i8 ra rt).toNat >>> 22 = op.toNat :=
  append_shiftRight (n := 10) (m := 22) _ _
@[simp] theorem fI8_formRI8 (op : BitVec 10) (i8 : BitVec 8) (ra rt : BitVec 7) : fI8 (formRI8 op i8 ra rt) = i8 :=
  (field_low (w := 10) (v := 22) _ _ (by decide)).trans
    (field_high (w := 8) (v := 14) _ _)
@[simp] theorem fRA_formRI8 (op : BitVec 10) (i8 : BitVec 8) (ra rt : BitVec 7) : fRA (formRI8 op i8 ra rt) = ra :=
  (field_low (w := 10) (v := 22) _ _ (by decide)).trans
    ((field_low (w := 8) (v := 14) _ _ (by decide)).trans
    (field_high (w := 7) (v := 7) _ _))
@[simp] theorem fRT_formRI8 (op : BitVec 10) (i8 : BitVec 8) (ra rt : BitVec 7) : fRT (formRI8 op i8 ra rt) = rt :=
  (field_low (w := 10) (v := 22) _ _ (by decide)).trans
    ((field_low (w := 8) (v := 14) _ _ (by decide)).trans
    ((field_low (w := 7) (v := 7) _ _ (by decide)).trans
    (field_all _)))
theorem formRI10_op (op : BitVec 8) (i10 : BitVec 10) (ra rt : BitVec 7) : (formRI10 op i10 ra rt).toNat >>> 24 = op.toNat :=
  append_shiftRight (n := 8) (m := 24) _ _
@[simp] theorem fI10_formRI10 (op : BitVec 8) (i10 : BitVec 10) (ra rt : BitVec 7) : fI10 (formRI10 op i10 ra rt) = i10 :=
  (field_low (w := 8) (v := 24) _ _ (by decide)).trans
    (field_high (w := 10) (v := 14) _ _)
@[simp] theorem fRA_formRI10 (op : BitVec 8) (i10 : BitVec 10) (ra rt : BitVec 7) : fRA (formRI10 op i10 ra rt) = ra :=
  (field_low (w := 8) (v := 24) _ _ (by decide)).trans
    ((field_low (w := 10) (v := 14) _ _ (by decide)).trans
    (field_high (w := 7) (v := 7) _ _))
@[simp] theorem fRT_formRI10 (op : BitVec 8) (i10 : BitVec 10) (ra rt : BitVec 7) : fRT (formRI10 op i10 ra rt) = rt :=
  (field_low (w := 8) (v := 24) _ _ (by decide)).trans
    ((field_low (w := 10) (v := 14) _ _ (by decide)).trans
    ((field_low (w := 7) (v := 7) _ _ (by decide)).trans
    (field_all _)))
theorem formRI16_op (op : BitVec 9) (i16 : BitVec 16) (rt : BitVec 7) : (formRI16 op i16 rt).toNat >>> 23 = op.toNat :=
  append_shiftRight (n := 9) (m := 23) _ _
@[simp] theorem fI16_formRI16 (op : BitVec 9) (i16 : BitVec 16) (rt : BitVec 7) : fI16 (formRI16 op i16 rt) = i16 :=
  (field_low (w := 9) (v := 23) _ _ (by decide)).trans
    (field_high (w := 16) (v := 7) _ _)
@[simp] theorem fRT_formRI16 (op : BitVec 9) (i16 : BitVec 16) (rt : BitVec 7) : fRT (formRI16 op i16 rt) = rt :=
  (field_low (w := 9) (v := 23) _ _ (by decide)).trans
    ((field_low (w := 16) (v := 7) _ _ (by decide)).trans
    (field_all _))
theorem formRI18_op (op : BitVec 7) (i18 : BitVec 18) (rt : BitVec 7) : (formRI18 op i18 rt).toNat >>> 25 = op.toNat :=
  append_shiftRight (n := 7) (m := 25) _ _
@[simp] theorem fI18_formRI18 (op : BitVec 7) (i18 : BitVec 18) (rt : BitVec 7) : fI18 (formRI18 op i18 rt) = i18 :=
  (field_low (w := 7) (v := 25) _ _ (by decide)).trans
    (field_high (w := 18) (v := 7) _ _)
@[simp] theorem fRT_formRI18 (op : BitVec 7) (i18 : BitVec 18) (rt : BitVec 7) : fRT (formRI18 op i18 rt) = rt :=
  (field_low (w := 7) (v := 25) _ _ (by decide)).trans
    ((field_low (w := 18) (v := 7) _ _ (by decide)).trans
    (field_all _))
theorem formBI_op (op : BitVec 11) (d e : Bool) (ra rt : BitVec 7) : (formBI op d e ra rt).toNat >>> 21 = op.toNat :=
  append_shiftRight (n := 11) (m := 21) _ _
@[simp] theorem fD_formBI (op : BitVec 11) (d e : Bool) (ra rt : BitVec 7) : fD (formBI op d e ra rt) = d :=
  (bit_low (w := 11) (v := 21) _ _ (by decide)).trans
    ((bit_low (w := 1) (v := 20) _ _ (by decide)).trans
    (bit_high (v := 19) _ _))
@[simp] theorem fE_formBI (op : BitVec 11) (d e : Bool) (ra rt : BitVec 7) : fE (formBI op d e ra rt) = e :=
  (bit_low (w := 11) (v := 21) _ _ (by decide)).trans
    ((bit_low (w := 1) (v := 20) _ _ (by decide)).trans
    ((bit_low (w := 1) (v := 19) _ _ (by decide)).trans
    (bit_high (v := 18) _ _)))
@[simp] theorem fRA_formBI (op : BitVec 11) (d e : Bool) (ra rt : BitVec 7) : fRA (formBI op d e ra rt) = ra :=
  (field_low (w := 11) (v := 21) _ _ (by decide)).trans
    ((field_low (w := 1) (v := 20) _ _ (by decide)).trans
    ((field_low (w := 1) (v := 19) _ _ (by decide)).trans
    ((field_low (w := 1) (v := 18) _ _ (by decide)).trans
    ((field_low (w := 4) (v := 14) _ _ (by decide)).trans
    (field_high (w := 7) (v := 7) _ _)))))
@[simp] theorem fRT_formBI (op : BitVec 11) (d e : Bool) (ra rt : BitVec 7) : fRT (formBI op d e ra rt) = rt :=
  (field_low (w := 11) (v := 21) _ _ (by decide)).trans
    ((field_low (w := 1) (v := 20) _ _ (by decide)).trans
    ((field_low (w := 1) (v := 19) _ _ (by decide)).trans
    ((field_low (w := 1) (v := 18) _ _ (by decide)).trans
    ((field_low (w := 4) (v := 14) _ _ (by decide)).trans
    ((field_low (w := 7) (v := 7) _ _ (by decide)).trans
    (field_all _))))))
theorem formSYNC_op (op : BitVec 11) (c : Bool) : (formSYNC op c).toNat >>> 21 = op.toNat :=
  append_shiftRight (n := 11) (m := 21) _ _
@[simp] theorem fC_formSYNC (op : BitVec 11) (c : Bool) : fC (formSYNC op c) = c :=
  (bit_low (w := 11) (v := 21) _ _ (by decide)).trans
    (bit_high (v := 20) _ _)
theorem formSTOP_op (op : BitVec 11) (sig : BitVec 14) : (formSTOP op sig).toNat >>> 21 = op.toNat :=
  append_shiftRight (n := 11) (m := 21) _ _
@[simp] theorem fSIG_formSTOP (op : BitVec 11) (sig : BitVec 14) : fSIG (formSTOP op sig) = sig :=
  (field_low (w := 11) (v := 21) _ _ (by decide)).trans
    ((field_low (w := 7) (v := 14) _ _ (by decide)).trans
    (field_all _))
theorem formHBR_op (op : BitVec 11) (p : Bool) (roh : BitVec 2) (ra rol : BitVec 7) : (formHBR op p roh ra rol).toNat >>> 21 = op.toNat :=
  append_shiftRight (n := 11) (m := 21) _ _
@[simp] theorem fP_formHBR (op : BitVec 11) (p : Bool) (roh : BitVec 2) (ra rol : BitVec 7) : fP (formHBR op p roh ra rol) = p :=
  (bit_low (w := 11) (v := 21) _ _ (by decide)).trans
    (bit_high (v := 20) _ _)
@[simp] theorem fROHr_formHBR (op : BitVec 11) (p : Bool) (roh : BitVec 2) (ra rol : BitVec 7) : fROHr (formHBR op p roh ra rol) = roh :=
  (field_low (w := 11) (v := 21) _ _ (by decide)).trans
    ((field_low (w := 1) (v := 20) _ _ (by decide)).trans
    ((field_low (w := 4) (v := 16) _ _ (by decide)).trans
    (field_high (w := 2) (v := 14) _ _)))
@[simp] theorem fRA_formHBR (op : BitVec 11) (p : Bool) (roh : BitVec 2) (ra rol : BitVec 7) : fRA (formHBR op p roh ra rol) = ra :=
  (field_low (w := 11) (v := 21) _ _ (by decide)).trans
    ((field_low (w := 1) (v := 20) _ _ (by decide)).trans
    ((field_low (w := 4) (v := 16) _ _ (by decide)).trans
    ((field_low (w := 2) (v := 14) _ _ (by decide)).trans
    (field_high (w := 7) (v := 7) _ _))))
@[simp] theorem fROL_formHBR (op : BitVec 11) (p : Bool) (roh : BitVec 2) (ra rol : BitVec 7) : fROL (formHBR op p roh ra rol) = rol :=
  (field_low (w := 11) (v := 21) _ _ (by decide)).trans
    ((field_low (w := 1) (v := 20) _ _ (by decide)).trans
    ((field_low (w := 4) (v := 16) _ _ (by decide)).trans
    ((field_low (w := 2) (v := 14) _ _ (by decide)).trans
    ((field_low (w := 7) (v := 7) _ _ (by decide)).trans
    (field_all _)))))
theorem formHBRA_op (op : BitVec 7) (roh : BitVec 2) (i16 : BitVec 16) (rol : BitVec 7) : (formHBRA op roh i16 rol).toNat >>> 25 = op.toNat :=
  append_shiftRight (n := 7) (m := 25) _ _
@[simp] theorem fROHa_formHBRA (op : BitVec 7) (roh : BitVec 2) (i16 : BitVec 16) (rol : BitVec 7) : fROHa (formHBRA op roh i16 rol) = roh :=
  (field_low (w := 7) (v := 25) _ _ (by decide)).trans
    (field_high (w := 2) (v := 23) _ _)
@[simp] theorem fI16_formHBRA (op : BitVec 7) (roh : BitVec 2) (i16 : BitVec 16) (rol : BitVec 7) : fI16 (formHBRA op roh i16 rol) = i16 :=
  (field_low (w := 7) (v := 25) _ _ (by decide)).trans
    ((field_low (w := 2) (v := 23) _ _ (by decide)).trans
    (field_high (w := 16) (v := 7) _ _))
@[simp] theorem fROL_formHBRA (op : BitVec 7) (roh : BitVec 2) (i16 : BitVec 16) (rol : BitVec 7) : fROL (formHBRA op roh i16 rol) = rol :=
  (field_low (w := 7) (v := 25) _ _ (by decide)).trans
    ((field_low (w := 2) (v := 23) _ _ (by decide)).trans
    ((field_low (w := 16) (v := 7) _ _ (by decide)).trans
    (field_all _)))

end Sys2Proof
end

