-- ==== Sys2Proof/Laws/Devices.lean ====
section
/-!
SUPPORT. Where a step's boundary stands among the acts of the devices, and what starts or frees the SPU.
-/

set_option Elab.async false

namespace Sys2Proof.Machine

/-- Cutting leaves the acts and their order as they are, and no start behind the cut. -/
theorem cutAtStart_spec (as : List DeviceAct) :
    (cutAtStart as).1 ++ (cutAtStart as).2 = as ∧ .start ∉ (cutAtStart as).2 := by
  induction as with
  | nil => exact ⟨rfl, List.not_mem_nil⟩
  | cons a as ih =>
    rw [cutAtStart]
    split
    · rename_i h
      rw [h.1, List.nil_append] at ih
      rw [ih.1] at ih
      exact ⟨rfl, by simp [Ne.symm h.2, ih.2]⟩
    · exact ⟨congrArg (a :: ·) ih.1, ih.2⟩

/-- What the devices do in a step: the acts of their turn in its order, the early ones before the boundary, and no
start behind it. -/
theorem State.turn_spec {s : State} {d : DeviceTurn} {ds : List DeviceTurn} (h : s.devices = d :: ds) :
    d.early <+: s.turn.early ∧ s.turn.early ++ s.turn.late = d.early ++ d.late ∧ .start ∉ s.turn.late := by
  have e : s.turn = ⟨d.early ++ (cutAtStart d.late).1, (cutAtStart d.late).2⟩ := by rw [State.turn, h]; rfl
  rw [e]
  refine ⟨List.prefix_append _ _, ?_, (cutAtStart_spec d.late).2⟩
  rw [List.append_assoc, (cutAtStart_spec d.late).1]

/-- A state without devices has an empty turn. -/
theorem State.turn_nil {s : State} (h : s.devices = []) : s.turn = ⟨[], []⟩ := by rw [State.turn, h]; rfl

/-- An act that is no start makes no stopped SPU run, and changes no wait of one that goes on running. -/
theorem State.applyAct_running {s t : State} {a : DeviceAct} (e : s.applyAct a = .ok t) (ha : a ≠ .start)
    (hr : t.run = .running) : s.run = .running ∧ t.wait = s.wait := by
  cases a <;> simp only [State.applyAct] at e
  case start => exact absurd rfl ha
  case stop =>
    cases e
    revert hr
    unfold State.stopExternal
    split
    · intro hr; cases hr
    · exact fun hr => ⟨hr, rfl⟩
  case supply ca v =>
    split at e
    · rename_i u hu
      cases e
      revert hu
      unfold State.supply
      repeat' split
      all_goals intro hu; cases hu
      exact ⟨hr, rfl⟩
    · cases e
  case drain ca =>
    split at e
    · rename_i u hu
      cases e
      revert hu
      unfold State.drain
      repeat' split
      all_goals intro hu; cases hu
      exact ⟨hr, rfl⟩
    · cases e
  case setSrr0 v =>
    cases e
    revert hr
    unfold State.setSrr0
    split <;> exact fun hr => ⟨hr, rfl⟩
  case setSpr sa v =>
    split at e <;> cases e
    exact ⟨by simpa using hr, by simp⟩
  all_goals
    repeat' split at e
    all_goals cases e
    all_goals exact ⟨hr, rfl⟩

/-- The same of a list of acts without a start. -/
theorem State.applyActs_running (as : List DeviceAct) : ∀ {s t : State}, s.applyActs as = .ok t → .start ∉ as →
    t.run = .running → s.run = .running ∧ t.wait = s.wait := by
  induction as with
  | nil => intro s t e _ hr; cases e; exact ⟨hr, rfl⟩
  | cons a as ih =>
    intro s t e ha hr
    rw [List.mem_cons, not_or] at ha
    simp only [State.applyActs] at e
    split at e
    · rename_i u hu
      obtain ⟨h1, h2⟩ := ih e ha.2 hr
      obtain ⟨h3, h4⟩ := State.applyAct_running hu (Ne.symm ha.1) h1
      exact ⟨h3, h2.trans h4⟩
    · cases e

end Sys2Proof.Machine
end

