-- ==== Sys2Proof/Laws/Dispatch.lean ====
section
/-!
SUPPORT. What `exec` is of each instruction, so that no later proof unfolds its match.
-/

set_option Elab.async false

namespace Sys2Proof.Machine

@[simp] theorem exec_lqd (rt ra : Reg) (i10 : BitVec 10) (s : State) :
    exec (.lqd rt ra i10) s = execLqd rt ra i10 s := rfl
@[simp] theorem exec_lqx (rt ra rb : Reg) (s : State) : exec (.lqx rt ra rb) s = execLqx rt ra rb s := rfl
@[simp] theorem exec_lqa (rt : Reg) (i16 : BitVec 16) (s : State) : exec (.lqa rt i16) s = execLqa rt i16 s := rfl
@[simp] theorem exec_lqr (rt : Reg) (i16 : BitVec 16) (s : State) : exec (.lqr rt i16) s = execLqr rt i16 s := rfl
@[simp] theorem exec_stqd (rt ra : Reg) (i10 : BitVec 10) (s : State) :
    exec (.stqd rt ra i10) s = execStqd rt ra i10 s := rfl
@[simp] theorem exec_stqx (rt ra rb : Reg) (s : State) : exec (.stqx rt ra rb) s = execStqx rt ra rb s := rfl
@[simp] theorem exec_stqa (rt : Reg) (i16 : BitVec 16) (s : State) : exec (.stqa rt i16) s = execStqa rt i16 s := rfl
@[simp] theorem exec_stqr (rt : Reg) (i16 : BitVec 16) (s : State) : exec (.stqr rt i16) s = execStqr rt i16 s := rfl
@[simp] theorem exec_cbd (rt ra : Reg) (i7 : BitVec 7) (s : State) : exec (.cbd rt ra i7) s = execCbd rt ra i7 s := rfl
@[simp] theorem exec_cbx (rt ra rb : Reg) (s : State) : exec (.cbx rt ra rb) s = execCbx rt ra rb s := rfl
@[simp] theorem exec_chd (rt ra : Reg) (i7 : BitVec 7) (s : State) : exec (.chd rt ra i7) s = execChd rt ra i7 s := rfl
@[simp] theorem exec_chx (rt ra rb : Reg) (s : State) : exec (.chx rt ra rb) s = execChx rt ra rb s := rfl
@[simp] theorem exec_cwd (rt ra : Reg) (i7 : BitVec 7) (s : State) : exec (.cwd rt ra i7) s = execCwd rt ra i7 s := rfl
@[simp] theorem exec_cwx (rt ra rb : Reg) (s : State) : exec (.cwx rt ra rb) s = execCwx rt ra rb s := rfl
@[simp] theorem exec_cdd (rt ra : Reg) (i7 : BitVec 7) (s : State) : exec (.cdd rt ra i7) s = execCdd rt ra i7 s := rfl
@[simp] theorem exec_cdx (rt ra rb : Reg) (s : State) : exec (.cdx rt ra rb) s = execCdx rt ra rb s := rfl
@[simp] theorem exec_ilh (rt : Reg) (i16 : BitVec 16) (s : State) : exec (.ilh rt i16) s = execIlh rt i16 s := rfl
@[simp] theorem exec_ilhu (rt : Reg) (i16 : BitVec 16) (s : State) : exec (.ilhu rt i16) s = execIlhu rt i16 s := rfl
@[simp] theorem exec_il (rt : Reg) (i16 : BitVec 16) (s : State) : exec (.il rt i16) s = execIl rt i16 s := rfl
@[simp] theorem exec_ila (rt : Reg) (i18 : BitVec 18) (s : State) : exec (.ila rt i18) s = execIla rt i18 s := rfl
@[simp] theorem exec_iohl (rt : Reg) (i16 : BitVec 16) (s : State) : exec (.iohl rt i16) s = execIohl rt i16 s := rfl
@[simp] theorem exec_fsmbi (rt : Reg) (i16 : BitVec 16) (s : State) :
    exec (.fsmbi rt i16) s = execFsmbi rt i16 s := rfl
@[simp] theorem exec_ah (rt ra rb : Reg) (s : State) : exec (.ah rt ra rb) s = execAh rt ra rb s := rfl
@[simp] theorem exec_ahi (rt ra : Reg) (i10 : BitVec 10) (s : State) :
    exec (.ahi rt ra i10) s = execAhi rt ra i10 s := rfl
@[simp] theorem exec_a (rt ra rb : Reg) (s : State) : exec (.a rt ra rb) s = execA rt ra rb s := rfl
@[simp] theorem exec_ai (rt ra : Reg) (i10 : BitVec 10) (s : State) :
    exec (.ai rt ra i10) s = execAi rt ra i10 s := rfl
@[simp] theorem exec_sfh (rt ra rb : Reg) (s : State) : exec (.sfh rt ra rb) s = execSfh rt ra rb s := rfl
@[simp] theorem exec_sfhi (rt ra : Reg) (i10 : BitVec 10) (s : State) :
    exec (.sfhi rt ra i10) s = execSfhi rt ra i10 s := rfl
@[simp] theorem exec_sf (rt ra rb : Reg) (s : State) : exec (.sf rt ra rb) s = execSf rt ra rb s := rfl
@[simp] theorem exec_sfi (rt ra : Reg) (i10 : BitVec 10) (s : State) :
    exec (.sfi rt ra i10) s = execSfi rt ra i10 s := rfl
@[simp] theorem exec_addx (rt ra rb : Reg) (s : State) : exec (.addx rt ra rb) s = execAddx rt ra rb s := rfl
@[simp] theorem exec_cg (rt ra rb : Reg) (s : State) : exec (.cg rt ra rb) s = execCg rt ra rb s := rfl
@[simp] theorem exec_cgx (rt ra rb : Reg) (s : State) : exec (.cgx rt ra rb) s = execCgx rt ra rb s := rfl
@[simp] theorem exec_sfx (rt ra rb : Reg) (s : State) : exec (.sfx rt ra rb) s = execSfx rt ra rb s := rfl
@[simp] theorem exec_bg (rt ra rb : Reg) (s : State) : exec (.bg rt ra rb) s = execBg rt ra rb s := rfl
@[simp] theorem exec_bgx (rt ra rb : Reg) (s : State) : exec (.bgx rt ra rb) s = execBgx rt ra rb s := rfl
@[simp] theorem exec_mpy (rt ra rb : Reg) (s : State) : exec (.mpy rt ra rb) s = execMpy rt ra rb s := rfl
@[simp] theorem exec_mpyu (rt ra rb : Reg) (s : State) : exec (.mpyu rt ra rb) s = execMpyu rt ra rb s := rfl
@[simp] theorem exec_mpyi (rt ra : Reg) (i10 : BitVec 10) (s : State) :
    exec (.mpyi rt ra i10) s = execMpyi rt ra i10 s := rfl
@[simp] theorem exec_mpyui (rt ra : Reg) (i10 : BitVec 10) (s : State) :
    exec (.mpyui rt ra i10) s = execMpyui rt ra i10 s := rfl
@[simp] theorem exec_mpya (rt ra rb rc : Reg) (s : State) : exec (.mpya rt ra rb rc) s = execMpya rt ra rb rc s := rfl
@[simp] theorem exec_mpyh (rt ra rb : Reg) (s : State) : exec (.mpyh rt ra rb) s = execMpyh rt ra rb s := rfl
@[simp] theorem exec_mpys (rt ra rb : Reg) (s : State) : exec (.mpys rt ra rb) s = execMpys rt ra rb s := rfl
@[simp] theorem exec_mpyhh (rt ra rb : Reg) (s : State) : exec (.mpyhh rt ra rb) s = execMpyhh rt ra rb s := rfl
@[simp] theorem exec_mpyhha (rt ra rb : Reg) (s : State) : exec (.mpyhha rt ra rb) s = execMpyhha rt ra rb s := rfl
@[simp] theorem exec_mpyhhu (rt ra rb : Reg) (s : State) : exec (.mpyhhu rt ra rb) s = execMpyhhu rt ra rb s := rfl
@[simp] theorem exec_mpyhhau (rt ra rb : Reg) (s : State) : exec (.mpyhhau rt ra rb) s = execMpyhhau rt ra rb s := rfl
@[simp] theorem exec_clz (rt ra : Reg) (s : State) : exec (.clz rt ra) s = execClz rt ra s := rfl
@[simp] theorem exec_cntb (rt ra : Reg) (s : State) : exec (.cntb rt ra) s = execCntb rt ra s := rfl
@[simp] theorem exec_fsmb (rt ra : Reg) (s : State) : exec (.fsmb rt ra) s = execFsmb rt ra s := rfl
@[simp] theorem exec_fsmh (rt ra : Reg) (s : State) : exec (.fsmh rt ra) s = execFsmh rt ra s := rfl
@[simp] theorem exec_fsm (rt ra : Reg) (s : State) : exec (.fsm rt ra) s = execFsm rt ra s := rfl
@[simp] theorem exec_gbb (rt ra : Reg) (s : State) : exec (.gbb rt ra) s = execGbb rt ra s := rfl
@[simp] theorem exec_gbh (rt ra : Reg) (s : State) : exec (.gbh rt ra) s = execGbh rt ra s := rfl
@[simp] theorem exec_gb (rt ra : Reg) (s : State) : exec (.gb rt ra) s = execGb rt ra s := rfl
@[simp] theorem exec_avgb (rt ra rb : Reg) (s : State) : exec (.avgb rt ra rb) s = execAvgb rt ra rb s := rfl
@[simp] theorem exec_absdb (rt ra rb : Reg) (s : State) : exec (.absdb rt ra rb) s = execAbsdb rt ra rb s := rfl
@[simp] theorem exec_sumb (rt ra rb : Reg) (s : State) : exec (.sumb rt ra rb) s = execSumb rt ra rb s := rfl
@[simp] theorem exec_xsbh (rt ra : Reg) (s : State) : exec (.xsbh rt ra) s = execXsbh rt ra s := rfl
@[simp] theorem exec_xshw (rt ra : Reg) (s : State) : exec (.xshw rt ra) s = execXshw rt ra s := rfl
@[simp] theorem exec_xswd (rt ra : Reg) (s : State) : exec (.xswd rt ra) s = execXswd rt ra s := rfl
@[simp] theorem exec_and (rt ra rb : Reg) (s : State) : exec (.and rt ra rb) s = execAnd rt ra rb s := rfl
@[simp] theorem exec_andc (rt ra rb : Reg) (s : State) : exec (.andc rt ra rb) s = execAndc rt ra rb s := rfl
@[simp] theorem exec_andbi (rt ra : Reg) (i10 : BitVec 10) (s : State) :
    exec (.andbi rt ra i10) s = execAndbi rt ra i10 s := rfl
@[simp] theorem exec_andhi (rt ra : Reg) (i10 : BitVec 10) (s : State) :
    exec (.andhi rt ra i10) s = execAndhi rt ra i10 s := rfl
@[simp] theorem exec_andi (rt ra : Reg) (i10 : BitVec 10) (s : State) :
    exec (.andi rt ra i10) s = execAndi rt ra i10 s := rfl
@[simp] theorem exec_or (rt ra rb : Reg) (s : State) : exec (.or rt ra rb) s = execOr rt ra rb s := rfl
@[simp] theorem exec_orc (rt ra rb : Reg) (s : State) : exec (.orc rt ra rb) s = execOrc rt ra rb s := rfl
@[simp] theorem exec_orbi (rt ra : Reg) (i10 : BitVec 10) (s : State) :
    exec (.orbi rt ra i10) s = execOrbi rt ra i10 s := rfl
@[simp] theorem exec_orhi (rt ra : Reg) (i10 : BitVec 10) (s : State) :
    exec (.orhi rt ra i10) s = execOrhi rt ra i10 s := rfl
@[simp] theorem exec_ori (rt ra : Reg) (i10 : BitVec 10) (s : State) :
    exec (.ori rt ra i10) s = execOri rt ra i10 s := rfl
@[simp] theorem exec_orx (rt ra : Reg) (s : State) : exec (.orx rt ra) s = execOrx rt ra s := rfl
@[simp] theorem exec_xor (rt ra rb : Reg) (s : State) : exec (.xor rt ra rb) s = execXor rt ra rb s := rfl
@[simp] theorem exec_xorbi (rt ra : Reg) (i10 : BitVec 10) (s : State) :
    exec (.xorbi rt ra i10) s = execXorbi rt ra i10 s := rfl
@[simp] theorem exec_xorhi (rt ra : Reg) (i10 : BitVec 10) (s : State) :
    exec (.xorhi rt ra i10) s = execXorhi rt ra i10 s := rfl
@[simp] theorem exec_xori (rt ra : Reg) (i10 : BitVec 10) (s : State) :
    exec (.xori rt ra i10) s = execXori rt ra i10 s := rfl
@[simp] theorem exec_nand (rt ra rb : Reg) (s : State) : exec (.nand rt ra rb) s = execNand rt ra rb s := rfl
@[simp] theorem exec_nor (rt ra rb : Reg) (s : State) : exec (.nor rt ra rb) s = execNor rt ra rb s := rfl
@[simp] theorem exec_eqv (rt ra rb : Reg) (s : State) : exec (.eqv rt ra rb) s = execEqv rt ra rb s := rfl
@[simp] theorem exec_selb (rt ra rb rc : Reg) (s : State) : exec (.selb rt ra rb rc) s = execSelb rt ra rb rc s := rfl
@[simp] theorem exec_shufb (rt ra rb rc : Reg) (s : State) :
    exec (.shufb rt ra rb rc) s = execShufb rt ra rb rc s := rfl
@[simp] theorem exec_shlh (rt ra rb : Reg) (s : State) : exec (.shlh rt ra rb) s = execShlh rt ra rb s := rfl
@[simp] theorem exec_shlhi (rt ra : Reg) (i7 : BitVec 7) (s : State) :
    exec (.shlhi rt ra i7) s = execShlhi rt ra i7 s := rfl
@[simp] theorem exec_shl (rt ra rb : Reg) (s : State) : exec (.shl rt ra rb) s = execShl rt ra rb s := rfl
@[simp] theorem exec_shli (rt ra : Reg) (i7 : BitVec 7) (s : State) :
    exec (.shli rt ra i7) s = execShli rt ra i7 s := rfl
@[simp] theorem exec_shlqbi (rt ra rb : Reg) (s : State) : exec (.shlqbi rt ra rb) s = execShlqbi rt ra rb s := rfl
@[simp] theorem exec_shlqbii (rt ra : Reg) (i7 : BitVec 7) (s : State) :
    exec (.shlqbii rt ra i7) s = execShlqbii rt ra i7 s := rfl
@[simp] theorem exec_shlqby (rt ra rb : Reg) (s : State) : exec (.shlqby rt ra rb) s = execShlqby rt ra rb s := rfl
@[simp] theorem exec_shlqbyi (rt ra : Reg) (i7 : BitVec 7) (s : State) :
    exec (.shlqbyi rt ra i7) s = execShlqbyi rt ra i7 s := rfl
@[simp] theorem exec_shlqbybi (rt ra rb : Reg) (s : State) :
    exec (.shlqbybi rt ra rb) s = execShlqbybi rt ra rb s := rfl
@[simp] theorem exec_roth (rt ra rb : Reg) (s : State) : exec (.roth rt ra rb) s = execRoth rt ra rb s := rfl
@[simp] theorem exec_rothi (rt ra : Reg) (i7 : BitVec 7) (s : State) :
    exec (.rothi rt ra i7) s = execRothi rt ra i7 s := rfl
@[simp] theorem exec_rot (rt ra rb : Reg) (s : State) : exec (.rot rt ra rb) s = execRot rt ra rb s := rfl
@[simp] theorem exec_roti (rt ra : Reg) (i7 : BitVec 7) (s : State) :
    exec (.roti rt ra i7) s = execRoti rt ra i7 s := rfl
@[simp] theorem exec_rotqby (rt ra rb : Reg) (s : State) : exec (.rotqby rt ra rb) s = execRotqby rt ra rb s := rfl
@[simp] theorem exec_rotqbyi (rt ra : Reg) (i7 : BitVec 7) (s : State) :
    exec (.rotqbyi rt ra i7) s = execRotqbyi rt ra i7 s := rfl
@[simp] theorem exec_rotqbybi (rt ra rb : Reg) (s : State) :
    exec (.rotqbybi rt ra rb) s = execRotqbybi rt ra rb s := rfl
@[simp] theorem exec_rotqbi (rt ra rb : Reg) (s : State) : exec (.rotqbi rt ra rb) s = execRotqbi rt ra rb s := rfl
@[simp] theorem exec_rotqbii (rt ra : Reg) (i7 : BitVec 7) (s : State) :
    exec (.rotqbii rt ra i7) s = execRotqbii rt ra i7 s := rfl
@[simp] theorem exec_rothm (rt ra rb : Reg) (s : State) : exec (.rothm rt ra rb) s = execRothm rt ra rb s := rfl
@[simp] theorem exec_rothmi (rt ra : Reg) (i7 : BitVec 7) (s : State) :
    exec (.rothmi rt ra i7) s = execRothmi rt ra i7 s := rfl
@[simp] theorem exec_rotm (rt ra rb : Reg) (s : State) : exec (.rotm rt ra rb) s = execRotm rt ra rb s := rfl
@[simp] theorem exec_rotmi (rt ra : Reg) (i7 : BitVec 7) (s : State) :
    exec (.rotmi rt ra i7) s = execRotmi rt ra i7 s := rfl
@[simp] theorem exec_rotqmby (rt ra rb : Reg) (s : State) : exec (.rotqmby rt ra rb) s = execRotqmby rt ra rb s := rfl
@[simp] theorem exec_rotqmbyi (rt ra : Reg) (i7 : BitVec 7) (s : State) :
    exec (.rotqmbyi rt ra i7) s = execRotqmbyi rt ra i7 s := rfl
@[simp] theorem exec_rotqmbybi (rt ra rb : Reg) (s : State) :
    exec (.rotqmbybi rt ra rb) s = execRotqmbybi rt ra rb s := rfl
@[simp] theorem exec_rotqmbi (rt ra rb : Reg) (s : State) : exec (.rotqmbi rt ra rb) s = execRotqmbi rt ra rb s := rfl
@[simp] theorem exec_rotqmbii (rt ra : Reg) (i7 : BitVec 7) (s : State) :
    exec (.rotqmbii rt ra i7) s = execRotqmbii rt ra i7 s := rfl
@[simp] theorem exec_rotmah (rt ra rb : Reg) (s : State) : exec (.rotmah rt ra rb) s = execRotmah rt ra rb s := rfl
@[simp] theorem exec_rotmahi (rt ra : Reg) (i7 : BitVec 7) (s : State) :
    exec (.rotmahi rt ra i7) s = execRotmahi rt ra i7 s := rfl
@[simp] theorem exec_rotma (rt ra rb : Reg) (s : State) : exec (.rotma rt ra rb) s = execRotma rt ra rb s := rfl
@[simp] theorem exec_rotmai (rt ra : Reg) (i7 : BitVec 7) (s : State) :
    exec (.rotmai rt ra i7) s = execRotmai rt ra i7 s := rfl
@[simp] theorem exec_heq (ra rb : Reg) (s : State) : exec (.heq ra rb) s = execHeq ra rb s := rfl
@[simp] theorem exec_heqi (ra : Reg) (i10 : BitVec 10) (s : State) : exec (.heqi ra i10) s = execHeqi ra i10 s := rfl
@[simp] theorem exec_hgt (ra rb : Reg) (s : State) : exec (.hgt ra rb) s = execHgt ra rb s := rfl
@[simp] theorem exec_hgti (ra : Reg) (i10 : BitVec 10) (s : State) : exec (.hgti ra i10) s = execHgti ra i10 s := rfl
@[simp] theorem exec_hlgt (ra rb : Reg) (s : State) : exec (.hlgt ra rb) s = execHlgt ra rb s := rfl
@[simp] theorem exec_hlgti (ra : Reg) (i10 : BitVec 10) (s : State) :
    exec (.hlgti ra i10) s = execHlgti ra i10 s := rfl
@[simp] theorem exec_ceqb (rt ra rb : Reg) (s : State) : exec (.ceqb rt ra rb) s = execCeqb rt ra rb s := rfl
@[simp] theorem exec_ceqbi (rt ra : Reg) (i10 : BitVec 10) (s : State) :
    exec (.ceqbi rt ra i10) s = execCeqbi rt ra i10 s := rfl
@[simp] theorem exec_ceqh (rt ra rb : Reg) (s : State) : exec (.ceqh rt ra rb) s = execCeqh rt ra rb s := rfl
@[simp] theorem exec_ceqhi (rt ra : Reg) (i10 : BitVec 10) (s : State) :
    exec (.ceqhi rt ra i10) s = execCeqhi rt ra i10 s := rfl
@[simp] theorem exec_ceq (rt ra rb : Reg) (s : State) : exec (.ceq rt ra rb) s = execCeq rt ra rb s := rfl
@[simp] theorem exec_ceqi (rt ra : Reg) (i10 : BitVec 10) (s : State) :
    exec (.ceqi rt ra i10) s = execCeqi rt ra i10 s := rfl
@[simp] theorem exec_cgtb (rt ra rb : Reg) (s : State) : exec (.cgtb rt ra rb) s = execCgtb rt ra rb s := rfl
@[simp] theorem exec_cgtbi (rt ra : Reg) (i10 : BitVec 10) (s : State) :
    exec (.cgtbi rt ra i10) s = execCgtbi rt ra i10 s := rfl
@[simp] theorem exec_cgth (rt ra rb : Reg) (s : State) : exec (.cgth rt ra rb) s = execCgth rt ra rb s := rfl
@[simp] theorem exec_cgthi (rt ra : Reg) (i10 : BitVec 10) (s : State) :
    exec (.cgthi rt ra i10) s = execCgthi rt ra i10 s := rfl
@[simp] theorem exec_cgt (rt ra rb : Reg) (s : State) : exec (.cgt rt ra rb) s = execCgt rt ra rb s := rfl
@[simp] theorem exec_cgti (rt ra : Reg) (i10 : BitVec 10) (s : State) :
    exec (.cgti rt ra i10) s = execCgti rt ra i10 s := rfl
@[simp] theorem exec_clgtb (rt ra rb : Reg) (s : State) : exec (.clgtb rt ra rb) s = execClgtb rt ra rb s := rfl
@[simp] theorem exec_clgtbi (rt ra : Reg) (i10 : BitVec 10) (s : State) :
    exec (.clgtbi rt ra i10) s = execClgtbi rt ra i10 s := rfl
@[simp] theorem exec_clgth (rt ra rb : Reg) (s : State) : exec (.clgth rt ra rb) s = execClgth rt ra rb s := rfl
@[simp] theorem exec_clgthi (rt ra : Reg) (i10 : BitVec 10) (s : State) :
    exec (.clgthi rt ra i10) s = execClgthi rt ra i10 s := rfl
@[simp] theorem exec_clgt (rt ra rb : Reg) (s : State) : exec (.clgt rt ra rb) s = execClgt rt ra rb s := rfl
@[simp] theorem exec_clgti (rt ra : Reg) (i10 : BitVec 10) (s : State) :
    exec (.clgti rt ra i10) s = execClgti rt ra i10 s := rfl
@[simp] theorem exec_br (i16 : BitVec 16) (s : State) : exec (.br i16) s = execBr i16 s := rfl
@[simp] theorem exec_bra (i16 : BitVec 16) (s : State) : exec (.bra i16) s = execBra i16 s := rfl
@[simp] theorem exec_brsl (rt : Reg) (i16 : BitVec 16) (s : State) : exec (.brsl rt i16) s = execBrsl rt i16 s := rfl
@[simp] theorem exec_brasl (rt : Reg) (i16 : BitVec 16) (s : State) :
    exec (.brasl rt i16) s = execBrasl rt i16 s := rfl
@[simp] theorem exec_bi (ra : Reg) (d e : Bool) (s : State) : exec (.bi ra d e) s = execBi ra d e s := rfl
@[simp] theorem exec_iret (ra : Reg) (d e : Bool) (s : State) : exec (.iret ra d e) s = execIret ra d e s := rfl
@[simp] theorem exec_bisled (rt ra : Reg) (d e : Bool) (s : State) :
    exec (.bisled rt ra d e) s = execBisled rt ra d e s := rfl
@[simp] theorem exec_bisl (rt ra : Reg) (d e : Bool) (s : State) :
    exec (.bisl rt ra d e) s = execBisl rt ra d e s := rfl
@[simp] theorem exec_brnz (rt : Reg) (i16 : BitVec 16) (s : State) : exec (.brnz rt i16) s = execBrnz rt i16 s := rfl
@[simp] theorem exec_brz (rt : Reg) (i16 : BitVec 16) (s : State) : exec (.brz rt i16) s = execBrz rt i16 s := rfl
@[simp] theorem exec_brhnz (rt : Reg) (i16 : BitVec 16) (s : State) :
    exec (.brhnz rt i16) s = execBrhnz rt i16 s := rfl
@[simp] theorem exec_brhz (rt : Reg) (i16 : BitVec 16) (s : State) : exec (.brhz rt i16) s = execBrhz rt i16 s := rfl
@[simp] theorem exec_biz (rt ra : Reg) (d e : Bool) (s : State) : exec (.biz rt ra d e) s = execBiz rt ra d e s := rfl
@[simp] theorem exec_binz (rt ra : Reg) (d e : Bool) (s : State) :
    exec (.binz rt ra d e) s = execBinz rt ra d e s := rfl
@[simp] theorem exec_bihz (rt ra : Reg) (d e : Bool) (s : State) :
    exec (.bihz rt ra d e) s = execBihz rt ra d e s := rfl
@[simp] theorem exec_bihnz (rt ra : Reg) (d e : Bool) (s : State) :
    exec (.bihnz rt ra d e) s = execBihnz rt ra d e s := rfl
@[simp] theorem exec_hbr (roh : BitVec 2) (rol : BitVec 7) (ra : Reg) (p : Bool) (s : State) :
    exec (.hbr roh rol ra p) s = execHbr roh rol ra p s := rfl
@[simp] theorem exec_hbra (roh : BitVec 2) (rol : BitVec 7) (i16 : BitVec 16) (s : State) :
    exec (.hbra roh rol i16) s = execHbra roh rol i16 s := rfl
@[simp] theorem exec_hbrr (roh : BitVec 2) (rol : BitVec 7) (i16 : BitVec 16) (s : State) :
    exec (.hbrr roh rol i16) s = execHbrr roh rol i16 s := rfl
@[simp] theorem exec_fa (rt ra rb : Reg) (s : State) : exec (.fa rt ra rb) s = execFa rt ra rb s := rfl
@[simp] theorem exec_dfa (rt ra rb : Reg) (s : State) : exec (.dfa rt ra rb) s = execDfa rt ra rb s := rfl
@[simp] theorem exec_fs (rt ra rb : Reg) (s : State) : exec (.fs rt ra rb) s = execFs rt ra rb s := rfl
@[simp] theorem exec_dfs (rt ra rb : Reg) (s : State) : exec (.dfs rt ra rb) s = execDfs rt ra rb s := rfl
@[simp] theorem exec_fm (rt ra rb : Reg) (s : State) : exec (.fm rt ra rb) s = execFm rt ra rb s := rfl
@[simp] theorem exec_dfm (rt ra rb : Reg) (s : State) : exec (.dfm rt ra rb) s = execDfm rt ra rb s := rfl
@[simp] theorem exec_fma (rt ra rb rc : Reg) (s : State) : exec (.fma rt ra rb rc) s = execFma rt ra rb rc s := rfl
@[simp] theorem exec_dfma (rt ra rb : Reg) (s : State) : exec (.dfma rt ra rb) s = execDfma rt ra rb s := rfl
@[simp] theorem exec_fnms (rt ra rb rc : Reg) (s : State) : exec (.fnms rt ra rb rc) s = execFnms rt ra rb rc s := rfl
@[simp] theorem exec_dfnms (rt ra rb : Reg) (s : State) : exec (.dfnms rt ra rb) s = execDfnms rt ra rb s := rfl
@[simp] theorem exec_fms (rt ra rb rc : Reg) (s : State) : exec (.fms rt ra rb rc) s = execFms rt ra rb rc s := rfl
@[simp] theorem exec_dfms (rt ra rb : Reg) (s : State) : exec (.dfms rt ra rb) s = execDfms rt ra rb s := rfl
@[simp] theorem exec_dfnma (rt ra rb : Reg) (s : State) : exec (.dfnma rt ra rb) s = execDfnma rt ra rb s := rfl
@[simp] theorem exec_frest (rt ra : Reg) (s : State) : exec (.frest rt ra) s = execFrest rt ra s := rfl
@[simp] theorem exec_frsqest (rt ra : Reg) (s : State) : exec (.frsqest rt ra) s = execFrsqest rt ra s := rfl
@[simp] theorem exec_fi (rt ra rb : Reg) (s : State) : exec (.fi rt ra rb) s = execFi rt ra rb s := rfl
@[simp] theorem exec_csflt (rt ra : Reg) (i8 : BitVec 8) (s : State) :
    exec (.csflt rt ra i8) s = execCsflt rt ra i8 s := rfl
@[simp] theorem exec_cflts (rt ra : Reg) (i8 : BitVec 8) (s : State) :
    exec (.cflts rt ra i8) s = execCflts rt ra i8 s := rfl
@[simp] theorem exec_cuflt (rt ra : Reg) (i8 : BitVec 8) (s : State) :
    exec (.cuflt rt ra i8) s = execCuflt rt ra i8 s := rfl
@[simp] theorem exec_cfltu (rt ra : Reg) (i8 : BitVec 8) (s : State) :
    exec (.cfltu rt ra i8) s = execCfltu rt ra i8 s := rfl
@[simp] theorem exec_frds (rt ra : Reg) (s : State) : exec (.frds rt ra) s = execFrds rt ra s := rfl
@[simp] theorem exec_fesd (rt ra : Reg) (s : State) : exec (.fesd rt ra) s = execFesd rt ra s := rfl
@[simp] theorem exec_dfceq (rt ra rb : Reg) (s : State) : exec (.dfceq rt ra rb) s = execDfceq rt ra rb s := rfl
@[simp] theorem exec_dfcmeq (rt ra rb : Reg) (s : State) : exec (.dfcmeq rt ra rb) s = execDfcmeq rt ra rb s := rfl
@[simp] theorem exec_dfcgt (rt ra rb : Reg) (s : State) : exec (.dfcgt rt ra rb) s = execDfcgt rt ra rb s := rfl
@[simp] theorem exec_dfcmgt (rt ra rb : Reg) (s : State) : exec (.dfcmgt rt ra rb) s = execDfcmgt rt ra rb s := rfl
@[simp] theorem exec_dftsv (rt ra : Reg) (i7 : BitVec 7) (s : State) :
    exec (.dftsv rt ra i7) s = execDftsv rt ra i7 s := rfl
@[simp] theorem exec_fceq (rt ra rb : Reg) (s : State) : exec (.fceq rt ra rb) s = execFceq rt ra rb s := rfl
@[simp] theorem exec_fcmeq (rt ra rb : Reg) (s : State) : exec (.fcmeq rt ra rb) s = execFcmeq rt ra rb s := rfl
@[simp] theorem exec_fcgt (rt ra rb : Reg) (s : State) : exec (.fcgt rt ra rb) s = execFcgt rt ra rb s := rfl
@[simp] theorem exec_fcmgt (rt ra rb : Reg) (s : State) : exec (.fcmgt rt ra rb) s = execFcmgt rt ra rb s := rfl
@[simp] theorem exec_fscrwr (ra rt : Reg) (s : State) : exec (.fscrwr ra rt) s = execFscrwr ra rt s := rfl
@[simp] theorem exec_fscrrd (rt : Reg) (s : State) : exec (.fscrrd rt) s = execFscrrd rt s := rfl
@[simp] theorem exec_stop (sig : BitVec 14) (s : State) : exec (.stop sig) s = execStop sig s := rfl
@[simp] theorem exec_stopd (rt ra rb : Reg) (s : State) : exec (.stopd rt ra rb) s = execStopd rt ra rb s := rfl
@[simp] theorem exec_lnop (s : State) : exec (.lnop) s = execLnop s := rfl
@[simp] theorem exec_nop (rt : Reg) (s : State) : exec (.nop rt) s = execNop rt s := rfl
@[simp] theorem exec_sync (c : Bool) (s : State) : exec (.sync c) s = execSync c s := rfl
@[simp] theorem exec_dsync (s : State) : exec (.dsync) s = execDsync s := rfl
@[simp] theorem exec_mfspr (rt : Reg) (sa : BitVec 7) (s : State) : exec (.mfspr rt sa) s = execMfspr rt sa s := rfl
@[simp] theorem exec_mtspr (sa : BitVec 7) (rt : Reg) (s : State) : exec (.mtspr sa rt) s = execMtspr sa rt s := rfl
@[simp] theorem exec_rdch (rt : Reg) (ca : BitVec 7) (s : State) : exec (.rdch rt ca) s = execRdch rt ca s := rfl
@[simp] theorem exec_rchcnt (rt : Reg) (ca : BitVec 7) (s : State) : exec (.rchcnt rt ca) s = execRchcnt rt ca s := rfl
@[simp] theorem exec_wrch (ca : BitVec 7) (rt : Reg) (s : State) : exec (.wrch ca rt) s = execWrch ca rt s := rfl

end Sys2Proof.Machine
end

