-- ==== Sys2Proof/Laws/Float.lean ====
section
/-!
SUPPORT. The integer computations of the two floating-point units, said once over rational numbers.
-/

set_option Elab.async false

namespace Sys2Proof.Machine

/- Rounding a quotient. -/

/-- `roundQuot` rounds the quotient by the mode. -/
theorem roundQuot_spec (mode : BitVec 2) (neg : Bool) (num den : ℕ) (hd : 0 < den) :
    RoundsTo mode neg ((num : ℚ) / den) (roundQuot mode neg num den) := by
  obtain ⟨q, hq⟩ : ∃ q, num / den = q := ⟨_, rfl⟩
  obtain ⟨r, hr⟩ : ∃ r, num % den = r := ⟨_, rfl⟩
  have hlt : r < den := hr ▸ Nat.mod_lt _ hd
  have hnum : num = den * q + r := by rw [← hq, ← hr, Nat.div_add_mod]
  have hdq : (0 : ℚ) < den := by exact_mod_cast hd
  obtain ⟨t, ht⟩ : ∃ t : ℚ, (r : ℚ) = t * den := ⟨r / den, by field_simp⟩
  have hx : (num : ℚ) / den = q + t := by
    rw [hnum, Nat.cast_add, Nat.cast_mul, ht]
    field_simp
  have h0 : 0 ≤ t := by
    by_contra h
    have := mul_neg_of_neg_of_pos (not_le.mp h) hdq
    rw [← ht] at this
    exact absurd this (by simp)
  have h1 : t < 1 := by
    by_contra h
    have h2 : (r : ℚ) < den := by exact_mod_cast hlt
    nlinarith
  have half_lt : den < 2 * r ↔ 1 / 2 < t := by
    rw [← Nat.cast_lt (α := ℚ), Nat.cast_mul, ht]
    constructor <;> intro h <;> push_cast at * <;> nlinarith
  have half_eq : 2 * r = den ↔ t = 1 / 2 := by
    rw [← Nat.cast_inj (R := ℚ), Nat.cast_mul, ht]
    constructor <;> intro h
    · push_cast at h
      nlinarith
    · rw [h]
      push_cast
      ring
  have zero_iff : r = 0 ↔ t = 0 := by
    rw [← Nat.cast_inj (R := ℚ), ht]
    simp [hdq.ne']
  have down : (q : ℚ) ≤ q + t ∧ (q : ℚ) + t < q + 1 := ⟨by linarith, by linarith⟩
  have up : ((if r = 0 then q else q + 1 : ℕ) : ℚ) - 1 < q + t ∧ (q : ℚ) + t ≤ (if r = 0 then q else q + 1 : ℕ) := by
    by_cases h : r = 0
    · have := zero_iff.mp h
      simp [h, this]
    · have : 0 < t := lt_of_le_of_ne h0 fun e => h (zero_iff.mpr e.symm)
      simp only [h, if_false]
      push_cast
      exact ⟨by linarith, by linarith⟩
  have near : |(q : ℚ) + t - (if den < 2 * r ∨ 2 * r = den ∧ q % 2 = 1 then q + 1 else q : ℕ)| ≤ 1 / 2 ∧
      (|(q : ℚ) + t - (if den < 2 * r ∨ 2 * r = den ∧ q % 2 = 1 then q + 1 else q : ℕ)| = 1 / 2 →
        (if den < 2 * r ∨ 2 * r = den ∧ q % 2 = 1 then q + 1 else q) % 2 = 0) := by
    split_ifs with hup
    · push_cast
      rcases hup with h | ⟨h, ho⟩
      · have := half_lt.mp h
        rw [abs_of_nonpos (by linarith)]
        exact ⟨by linarith, fun h' => by linarith⟩
      · have := half_eq.mp h
        rw [abs_of_nonpos (by linarith)]
        exact ⟨by linarith, fun _ => by omega⟩
    · rw [half_lt, half_eq] at hup
      push Not at hup
      have e : (q : ℚ) + t - q = t := by ring
      rw [e, abs_of_nonneg h0]
      exact ⟨hup.1, fun h => by have := hup.2 h; omega⟩
  have hm : mode = 0b00#2 ∨ mode = 0b01#2 ∨ mode = 0b10#2 ∨ mode = 0b11#2 := by
    revert mode
    decide
  rcases hm with rfl | rfl | rfl | rfl
  · simpa [RoundsTo, roundQuot, hq, hr, hx] using near
  · simpa [RoundsTo, roundQuot, hq, hr, hx] using down
  · cases neg
    · simpa [RoundsTo, roundQuot, hq, hr, hx] using up
    · simpa [RoundsTo, roundQuot, hq, hr, hx] using down
  · cases neg
    · simpa [RoundsTo, roundQuot, hq, hr, hx] using down
    · simpa [RoundsTo, roundQuot, hq, hr, hx] using up

/-- A quotient without a remainder is left as it is, one with a remainder never rounds to itself. -/
theorem roundQuot_exact (mode : BitVec 2) (neg : Bool) (num den : ℕ) (hd : 0 < den) :
    num % den = 0 ↔ roundQuot mode neg num den * den = num := by
  constructor
  · intro h
    have : roundQuot mode neg num den = num / den := by
      unfold roundQuot
      rw [h]
      simp [hd.ne]
    rw [this]
    exact Nat.div_mul_cancel (Nat.dvd_of_mod_eq_zero h)
  · intro h
    rw [← h]
    simp

/-- The rounded quotient lies between the integers next to the quotient. -/
theorem roundQuot_bounds (mode : BitVec 2) (neg : Bool) (num den : ℕ) :
    num / den ≤ roundQuot mode neg num den ∧ roundQuot mode neg num den ≤ num / den + 1 := by
  unfold roundQuot
  dsimp only
  split_ifs <;> omega

/- `roundTo`: exponent and fraction as one number. -/

/-- The magnitude that exponent and fraction, as one number, stand for; none for an infinity. -/
def Format.magnitude (fmt : Format) (code : ℕ) : Option ℚ :=
  if fmt.expMax * 2 ^ fmt.frac ≤ code then none
  else if code / 2 ^ fmt.frac = 0 then some ((code : ℚ) / 2 ^ fmt.least)
  else some (((2 : ℚ) ^ fmt.frac + (code % 2 ^ fmt.frac : ℕ)) *
    (2 : ℚ) ^ (((code / 2 ^ fmt.frac : ℕ) : ℤ) - 1 - fmt.least))

/-- `n * 2^u` as exponent and fraction, where `n` has at most `frac + 1` significant bits. -/
theorem Format.magnitude_code (fmt : Format) (u n : ℕ) (hn : n ≤ 2 ^ (fmt.frac + 1))
    (hu : u = 0 ∨ 2 ^ fmt.frac ≤ n) (hc : u * 2 ^ fmt.frac + n < fmt.expMax * 2 ^ fmt.frac) :
    fmt.magnitude (u * 2 ^ fmt.frac + n) = some (n * (2 : ℚ) ^ ((u : ℤ) - fmt.least)) := by
  obtain ⟨P, hP⟩ : ∃ P, 2 ^ fmt.frac = P := ⟨_, rfl⟩
  have hP0 : 0 < P := hP ▸ Nat.two_pow_pos _
  have hPq : (2 : ℚ) ^ fmt.frac = P := by rw [← hP]; push_cast; rfl
  rw [pow_succ, hP] at hn
  rw [hP] at hc hu
  unfold Format.magnitude
  rw [hP, hPq, if_neg (by omega)]
  have two : (2 : ℚ) ≠ 0 := by norm_num
  have hdiv : (u * P + n) / P = u + n / P := by rw [Nat.add_comm, Nat.add_mul_div_right _ _ hP0, Nat.add_comm]
  have hmod : (u * P + n) % P = n % P := by rw [Nat.add_comm, Nat.add_mul_mod_self_right]
  rw [hdiv, hmod]
  rcases Nat.lt_or_ge n P with h | h
  · have hu0 : u = 0 := by omega
    subst hu0
    simp [Nat.div_eq_of_lt h, div_eq_mul_inv]
  · rcases Nat.lt_or_ge n (2 * P) with h2 | h2
    · have e1 : n / P = 1 := Nat.div_eq_of_lt_le (by omega) (by omega)
      have e2 : n % P = n - P := by rw [Nat.mod_eq_sub_mod h, Nat.mod_eq_of_lt (by omega)]
      rw [e1, e2, if_neg (by omega), Nat.cast_sub h]
      congr 2
      · ring
      · congr 1
        push_cast
        ring
    · have e : n = 2 * P := by omega
      subst e
      have e1 : 2 * P / P = 2 := Nat.mul_div_cancel _ hP0
      rw [e1, Nat.mul_mod_left, if_neg (by omega)]
      congr 1
      have : ((u + 2 : ℕ) : ℤ) - 1 - fmt.least = ((u : ℤ) - fmt.least) + 1 := by push_cast; ring
      rw [this, zpow_add_one₀ two]
      push_cast
      ring

/-- Whether the rounded number is beyond the format: as a rational number and as exponent and fraction. -/
theorem Format.overflow_iff (fmt : Format) (hE : 2 ≤ fmt.expMax) (u n : ℕ) (hn : n ≤ 2 ^ (fmt.frac + 1))
    (hu : u = 0 ∨ 2 ^ fmt.frac ≤ n) :
    fmt.largest < n * (2 : ℚ) ^ ((u : ℤ) - fmt.least) ↔ fmt.expMax * 2 ^ fmt.frac ≤ u * 2 ^ fmt.frac + n := by
  obtain ⟨U, hU⟩ : ∃ U, fmt.expMax = U + 2 := ⟨fmt.expMax - 2, by omega⟩
  have two : (2 : ℚ) ≠ 0 := by norm_num
  have hpos : (0 : ℚ) < 2 ^ fmt.least := by positivity
  have key : fmt.largest < n * (2 : ℚ) ^ ((u : ℤ) - fmt.least) ↔ (2 ^ (fmt.frac + 1) - 1) * 2 ^ U < n * 2 ^ u := by
    have e1 : fmt.largest = ((2 ^ (fmt.frac + 1) - 1) * 2 ^ U : ℕ) / 2 ^ fmt.least := by
      have : ((fmt.expMax : ℤ) - 2 - fmt.least) = (U : ℤ) - fmt.least := by rw [hU]; push_cast; ring
      rw [Format.largest, this, zpow_sub₀ two, Nat.cast_mul, Nat.cast_sub Nat.one_le_two_pow]
      push_cast
      rw [zpow_natCast, zpow_natCast, mul_div_assoc]
    have e2 : n * (2 : ℚ) ^ ((u : ℤ) - fmt.least) = (n * 2 ^ u : ℕ) / 2 ^ fmt.least := by
      rw [zpow_sub₀ two]
      push_cast
      rw [zpow_natCast, zpow_natCast, mul_div_assoc]
    rw [e1, e2, div_lt_div_iff_of_pos_right hpos, Nat.cast_lt]
  rw [key, hU]
  obtain ⟨P, hP⟩ : ∃ P, 2 ^ fmt.frac = P := ⟨_, rfl⟩
  have hP0 : 0 < P := hP ▸ Nat.two_pow_pos _
  rw [pow_succ, hP] at hn ⊢
  rw [hP] at hu
  rcases Nat.lt_trichotomy u U with h | h | h
  · obtain ⟨d, hd⟩ : ∃ d, U = u + d + 1 := ⟨U - u - 1, by omega⟩
    have hq : 1 ≤ 2 ^ d := Nat.one_le_two_pow
    constructor
    · intro hlt
      exfalso
      rw [hd, pow_succ, pow_add] at hlt
      have h1 : n * 2 ^ u ≤ (P * 2) * 2 ^ u := Nat.mul_le_mul_right _ hn
      have h2 : P * 2 * 2 ^ u ≤ (P * 2 - 1) * (2 ^ u * 2 ^ d * 2) := by
        have : P * 2 ≤ (P * 2 - 1) * 2 := by omega
        calc P * 2 * 2 ^ u ≤ ((P * 2 - 1) * 2) * 2 ^ u := Nat.mul_le_mul_right _ this
          _ ≤ ((P * 2 - 1) * 2) * (2 ^ u * 2 ^ d) := Nat.mul_le_mul_left _ (Nat.le_mul_of_pos_right _ hq)
          _ = _ := by ring
      omega
    · intro hle
      exfalso
      have : (u + 3) * P ≤ (U + 2) * P := Nat.mul_le_mul_right _ (by omega)
      rw [Nat.add_mul] at this
      omega
  · subst h
    rw [Nat.mul_lt_mul_right (Nat.two_pow_pos u), Nat.add_mul]
    omega
  · have hn' : P ≤ n := by omega
    obtain ⟨d, hd⟩ : ∃ d, u = U + d + 1 := ⟨u - U - 1, by omega⟩
    have hq : 1 ≤ 2 ^ d := Nat.one_le_two_pow
    constructor
    · intro _
      have : (U + 1) * P ≤ u * P := Nat.mul_le_mul_right _ (by omega)
      rw [Nat.add_mul] at this ⊢
      omega
    · intro _
      rw [hd, pow_succ, pow_add]
      have h2 : (P * 2) * 2 ^ U ≤ n * (2 ^ U * 2 ^ d * 2) := by
        calc (P * 2) * 2 ^ U ≤ (n * 2) * 2 ^ U := Nat.mul_le_mul_right _ (by omega)
          _ ≤ (n * 2) * (2 ^ U * 2 ^ d) := Nat.mul_le_mul_left _ (Nat.le_mul_of_pos_right _ hq)
          _ = _ := by ring
      have h3 : (P * 2 - 1) * 2 ^ U < (P * 2) * 2 ^ U := Nat.mul_lt_mul_of_pos_right (by omega) (Nat.two_pow_pos U)
      omega

/-- `roundTo` is the rounding of the spec: what it delivers, and the flags. -/
theorem roundTo_spec (fmt : Format) (hE : 2 ≤ fmt.expMax) (hl : fmt.frac ≤ fmt.least) (mode : BitVec 2) (neg : Bool)
    (m k : ℕ) (hm : m ≠ 0) :
    MagnitudeRounds fmt mode neg ((m : ℚ) / 2 ^ k) (fmt.magnitude (roundTo fmt mode neg m k).1)
      (roundTo fmt mode neg m k).2 := by
  have two : (2 : ℚ) ≠ 0 := by norm_num
  have one2 : (1 : ℚ) < 2 := by norm_num
  obtain ⟨u, hu⟩ : ∃ u, Nat.log2 m + fmt.least - (k + fmt.frac) = u := ⟨_, rfl⟩
  obtain ⟨n, hn⟩ : ∃ n, roundQuot mode neg (m * 2 ^ fmt.least) (2 ^ (k + u)) = n := ⟨_, rfl⟩
  have hden : 0 < 2 ^ (k + u) := Nat.two_pow_pos _
  have hlo : 2 ^ Nat.log2 m ≤ m := Nat.log2_self_le hm
  have hhi : m < 2 ^ (Nat.log2 m + 1) := Nat.lt_log2_self
  have hx : (m : ℚ) / 2 ^ k = (m * 2 ^ fmt.least : ℕ) / (2 ^ (k + u) : ℕ) * (2 : ℚ) ^ ((u : ℤ) - fmt.least) := by
    rw [zpow_sub₀ two, zpow_natCast, zpow_natCast]
    push_cast
    rw [pow_add]
    field_simp
  have hpos : (0 : ℚ) < 2 ^ ((u : ℤ) - fmt.least) := zpow_pos (by norm_num) _
  have hq : (m : ℚ) / 2 ^ k / (2 : ℚ) ^ ((u : ℤ) - fmt.least) = (m * 2 ^ fmt.least : ℕ) / (2 ^ (k + u) : ℕ) := by
    rw [hx, mul_div_assoc, div_self hpos.ne', mul_one]
  have hm1 : m * 2 ^ fmt.least < 2 ^ (fmt.frac + 1) * 2 ^ (k + u) := by
    calc m * 2 ^ fmt.least < 2 ^ (Nat.log2 m + 1) * 2 ^ fmt.least := Nat.mul_lt_mul_of_pos_right hhi (Nat.two_pow_pos _)
      _ = 2 ^ (Nat.log2 m + 1 + fmt.least) := (pow_add ..).symm
      _ ≤ 2 ^ (fmt.frac + 1 + (k + u)) := Nat.pow_le_pow_right (by omega) (by omega)
      _ = _ := pow_add ..
  have hm2 : u = 0 ∨ 2 ^ fmt.frac * 2 ^ (k + u) ≤ m * 2 ^ fmt.least := by
    rcases Nat.eq_zero_or_pos u with h | h
    · exact .inl h
    · right
      calc 2 ^ fmt.frac * 2 ^ (k + u) = 2 ^ (fmt.frac + (k + u)) := (pow_add ..).symm
        _ = 2 ^ (Nat.log2 m + fmt.least) := by congr 1; omega
        _ = 2 ^ Nat.log2 m * 2 ^ fmt.least := pow_add ..
        _ ≤ _ := Nat.mul_le_mul_right _ hlo
  have hb := roundQuot_bounds mode neg (m * 2 ^ fmt.least) (2 ^ (k + u))
  rw [hn] at hb
  have hn1 : n ≤ 2 ^ (fmt.frac + 1) := by
    have : m * 2 ^ fmt.least / 2 ^ (k + u) < 2 ^ (fmt.frac + 1) := (Nat.div_lt_iff_lt_mul hden).mpr hm1
    omega
  have hn2 : u = 0 ∨ 2 ^ fmt.frac ≤ n := by
    refine hm2.imp_right fun h => le_trans ?_ hb.1
    exact (Nat.le_div_iff_mul_le hden).mpr h
  have hex : (m * 2 ^ fmt.least) % 2 ^ (k + u) = 0 ↔ (n : ℚ) * 2 ^ ((u : ℤ) - fmt.least) = (m : ℚ) / 2 ^ k := by
    rw [roundQuot_exact mode neg _ _ hden, hn, hx, mul_left_inj' hpos.ne', eq_div_iff (by exact_mod_cast hden.ne'),
      ← Nat.cast_mul, Nat.cast_inj]
  have htiny : m * 2 ^ (fmt.least - fmt.frac) < 2 ^ k ↔ (m : ℚ) / 2 ^ k < (2 : ℚ) ^ ((fmt.frac : ℤ) - fmt.least) := by
    have e : (2 : ℚ) ^ ((fmt.frac : ℤ) - fmt.least) = 1 / 2 ^ (fmt.least - fmt.frac) := by
      rw [show ((fmt.frac : ℤ) - fmt.least) = -((fmt.least - fmt.frac : ℕ) : ℤ) by push_cast [Nat.cast_sub hl]; ring,
        zpow_neg, zpow_natCast, one_div]
    rw [e, div_lt_div_iff₀ (by positivity) (by positivity), one_mul, ← Nat.cast_lt (α := ℚ)]
    push_cast
    rfl
  refine ⟨(u : ℤ) - fmt.least, n, by omega, ?_, ?_, hq ▸ hn ▸ roundQuot_spec mode neg _ _ hden, ?_⟩
  · rw [show (u : ℤ) - fmt.least + fmt.frac + 1 = ((fmt.frac + 1 : ℕ) : ℤ) + ((u : ℤ) - fmt.least) by push_cast; ring,
      zpow_add₀ two, ← div_lt_iff₀ hpos, hq, zpow_natCast, div_lt_iff₀ (by exact_mod_cast hden)]
    exact_mod_cast hm1
  · refine hm2.imp (fun h => by rw [h]; simp) fun h => ?_
    rw [show (u : ℤ) - fmt.least + fmt.frac = ((fmt.frac : ℕ) : ℤ) + ((u : ℤ) - fmt.least) by ring, zpow_add₀ two,
      ← le_div_iff₀ hpos, hq, zpow_natCast, le_div_iff₀ (by exact_mod_cast hden)]
    exact_mod_cast h
  · have hov := fmt.overflow_iff hE u n hn1 hn2
    simp only [roundTo, hu, hn]
    by_cases hc : fmt.expMax * 2 ^ fmt.frac ≤ u * 2 ^ fmt.frac + n
    · rw [if_pos (hov.mpr hc), if_pos hc]
      refine ⟨?_, rfl⟩
      split_ifs
      · simp [Format.magnitude]
      · obtain ⟨E, hEe⟩ : ∃ E, fmt.expMax = E + 2 := ⟨fmt.expMax - 2, by omega⟩
        have hP : 0 < 2 ^ fmt.frac := Nat.two_pow_pos _
        have e : fmt.expMax * 2 ^ fmt.frac - 1 = E * 2 ^ fmt.frac + (2 ^ (fmt.frac + 1) - 1) := by
          rw [hEe, pow_succ, Nat.add_mul]
          omega
        dsimp only
        rw [e, fmt.magnitude_code E _ (by omega) (.inr (by rw [pow_succ]; omega))
          (by rw [hEe, pow_succ, Nat.add_mul]; omega), Format.largest]
        congr 2
        · rw [Nat.cast_sub Nat.one_le_two_pow]
          push_cast
          rfl
        · congr 1
          rw [hEe]
          push_cast
          ring
    · rw [if_neg (fun h => hc (hov.mp h)), if_neg hc]
      refine ⟨fmt.magnitude_code u n hn1 hn2 (by omega), ?_⟩
      by_cases h : (m * 2 ^ fmt.least) % 2 ^ (k + u) = 0
      · simp [h, hex.mp h]
      · have e1 : ((m * 2 ^ fmt.least) % 2 ^ (k + u) != 0) = true := by simpa using h
        have e2 : (n : ℚ) * 2 ^ ((u : ℤ) - fmt.least) ≠ (m : ℚ) / 2 ^ k := fun e => h (hex.mpr e)
        simp only [e1, htiny, Bool.and_true, decide_eq_true e2]
        simp [e2]

theorem roundTo_le (fmt : Format) (mode : BitVec 2) (neg : Bool) (m k : ℕ) :
    (roundTo fmt mode neg m k).1 ≤ fmt.expMax * 2 ^ fmt.frac := by
  unfold roundTo
  dsimp only
  split_ifs <;> omega

/- Fields of a word put together from sign and code. -/

theorem dFields (neg : Bool) (c : ℕ) (hc : c ≤ 2047 * 2 ^ 52) :
    dSign (BitVec.ofBool neg ++ BitVec.ofNat 63 c) = neg ∧ dExp (BitVec.ofBool neg ++ BitVec.ofNat 63 c) = c / 2 ^ 52 ∧
      dFrac (BitVec.ofBool neg ++ BitVec.ofNat 63 c) = c % 2 ^ 52 := by
  have hm : c % 2 ^ 63 = c := Nat.mod_eq_of_lt (by omega)
  refine ⟨?_, ?_, ?_⟩
  · rw [dSign, BitVec.getLsbD_append]
    simp
  · rw [dExp, extract_low _ _ (by omega), BitVec.extractLsb'_toNat, BitVec.toNat_ofNat, hm, Nat.shiftRight_eq_div_pow]
    omega
  · rw [dFrac, extract_low _ _ (by omega), BitVec.extractLsb'_toNat, BitVec.toNat_ofNat, hm, Nat.shiftRight_zero]

theorem sFields (neg : Bool) (c : ℕ) (hc : c ≤ 255 * 2 ^ 23) :
    (BitVec.ofBool neg ++ BitVec.ofNat 31 c).getLsbD 31 = neg ∧
      sExp (BitVec.ofBool neg ++ BitVec.ofNat 31 c) = c / 2 ^ 23 ∧
      sFrac (BitVec.ofBool neg ++ BitVec.ofNat 31 c) = c % 2 ^ 23 := by
  have hm : c % 2 ^ 31 = c := Nat.mod_eq_of_lt (by omega)
  refine ⟨?_, ?_, ?_⟩
  · rw [BitVec.getLsbD_append]
    simp
  · rw [sExp, extract_low _ _ (by omega), BitVec.extractLsb'_toNat, BitVec.toNat_ofNat, hm, Nat.shiftRight_eq_div_pow]
    omega
  · rw [sFrac, extract_low _ _ (by omega), BitVec.extractLsb'_toNat, BitVec.toNat_ofNat, hm, Nat.shiftRight_zero]

/-- A double made of sign and code is the magnitude the code stands for. -/
theorem doubleIs_code (neg : Bool) (c : ℕ) (hc : c ≤ 2047 * 2 ^ 52) :
    DoubleIs (BitVec.ofBool neg ++ BitVec.ofNat 63 c) neg (doubleFormat.magnitude c) := by
  obtain ⟨h1, h2, h3⟩ := dFields neg c hc
  have hf : doubleFormat.magnitude c = if 2047 * 2 ^ 52 ≤ c then none else if c / 2 ^ 52 = 0 then some ((c : ℚ) / 2 ^ 1074)
      else some (((2 : ℚ) ^ 52 + (c % 2 ^ 52 : ℕ)) * (2 : ℚ) ^ (((c / 2 ^ 52 : ℕ) : ℤ) - 1 - (1074 : ℕ))) := rfl
  rw [hf]
  by_cases ha : 2047 * 2 ^ 52 ≤ c
  · have : c = 2047 * 2 ^ 52 := by omega
    subst this
    exact rfl
  · rw [if_neg ha]
    by_cases hb : c / 2 ^ 52 = 0
    · rw [if_pos hb]
      refine ⟨h1, by rw [dFinite, h2]; omega, ?_⟩
      rw [doubleMagnitude, h2, h3, if_pos hb]
      have : c % 2 ^ 52 = c := Nat.mod_eq_of_lt (by omega)
      rw [this]
    · rw [if_neg hb]
      refine ⟨h1, by rw [dFinite, h2]; omega, ?_⟩
      rw [doubleMagnitude, h2, h3, if_neg hb]
      congr 2
      push_cast
      ring

/-- An IEEE single made of sign and code is the magnitude the code stands for. -/
theorem singleIs_code (neg : Bool) (c : ℕ) (hc : c ≤ 255 * 2 ^ 23) :
    SingleIs (BitVec.ofBool neg ++ BitVec.ofNat 31 c) neg (singleFormat.magnitude c) := by
  obtain ⟨h1, h2, h3⟩ := sFields neg c hc
  have hf : singleFormat.magnitude c = if 255 * 2 ^ 23 ≤ c then none else if c / 2 ^ 23 = 0 then some ((c : ℚ) / 2 ^ 149)
      else some (((2 : ℚ) ^ 23 + (c % 2 ^ 23 : ℕ)) * (2 : ℚ) ^ (((c / 2 ^ 23 : ℕ) : ℤ) - 1 - (149 : ℕ))) := rfl
  rw [hf]
  by_cases ha : 255 * 2 ^ 23 ≤ c
  · have : c = 255 * 2 ^ 23 := by omega
    subst this
    exact rfl
  · rw [if_neg ha]
    by_cases hb : c / 2 ^ 23 = 0
    · rw [if_pos hb]
      refine ⟨h1, by rw [h2]; omega, ?_⟩
      rw [ieeeMagnitude, h2, h3, if_pos hb]
      have : c % 2 ^ 23 = c := Nat.mod_eq_of_lt (by omega)
      rw [this]
    · rw [if_neg hb]
      refine ⟨h1, by rw [h2]; omega, ?_⟩
      rw [ieeeMagnitude, h2, h3, if_neg hb]
      congr 2
      push_cast
      ring

theorem dround_of_ne (mode : BitVec 2) (zeroNeg : Bool) (n : ℤ) (k : ℕ) (h : n ≠ 0) :
    dround mode zeroNeg n k =
      (BitVec.ofBool (decide (n < 0)) ++ BitVec.ofNat 63 (roundTo doubleFormat mode (decide (n < 0)) n.natAbs k).1,
        (roundTo doubleFormat mode (decide (n < 0)) n.natAbs k).2) := by
  rw [dround, if_neg h]

theorem DoubleRounds.of_ne {mode : BitVec 2} {zeroNeg : Bool} {r : ℚ} {d : Dword} {f : DoubleFlags} {m : Option ℚ}
    {neg : Bool} (hr : r ≠ 0) (hn : r < 0 ↔ neg = true) (hm : MagnitudeRounds doubleFormat mode neg |r| m f)
    (hd : DoubleIs d neg m) : DoubleRounds mode zeroNeg r d f := by
  have hdec : decide (r < 0) = neg := by
    cases neg <;> simp_all
  rw [DoubleRounds, if_neg hr, hdec]
  exact ⟨m, hm, hd⟩

theorem roundTo_double (mode : BitVec 2) (neg : Bool) (m k : ℕ) (hm : m ≠ 0) :
    MagnitudeRounds doubleFormat mode neg ((m : ℚ) / 2 ^ k)
        (doubleFormat.magnitude (roundTo doubleFormat mode neg m k).1) (roundTo doubleFormat mode neg m k).2 ∧
      (roundTo doubleFormat mode neg m k).1 ≤ 2047 * 2 ^ 52 :=
  ⟨roundTo_spec doubleFormat (by norm_num [doubleFormat]) (by norm_num [doubleFormat]) mode neg m k hm,
    roundTo_le doubleFormat mode neg m k⟩

theorem roundTo_single (mode : BitVec 2) (neg : Bool) (m k : ℕ) (hm : m ≠ 0) :
    MagnitudeRounds singleFormat mode neg ((m : ℚ) / 2 ^ k)
        (singleFormat.magnitude (roundTo singleFormat mode neg m k).1) (roundTo singleFormat mode neg m k).2 ∧
      (roundTo singleFormat mode neg m k).1 ≤ 255 * 2 ^ 23 :=
  ⟨roundTo_spec singleFormat (by norm_num [singleFormat]) (by norm_num [singleFormat]) mode neg m k hm,
    roundTo_le singleFormat mode neg m k⟩

/-- `dround` is the rounding of the spec. -/
theorem dround_spec (mode : BitVec 2) (zeroNeg : Bool) (n : ℤ) (k : ℕ) :
    DoubleRounds mode zeroNeg ((n : ℚ) / 2 ^ k) (dround mode zeroNeg n k).1 (dround mode zeroNeg n k).2 := by
  have hp : (0 : ℚ) < 2 ^ k := by positivity
  by_cases h : n = 0
  · simp [h, dround, DoubleRounds]
  · have habs : |(n : ℚ) / 2 ^ k| = (n.natAbs : ℚ) / 2 ^ k := by
      rw [abs_div, abs_of_pos hp, ← Int.cast_abs, Int.abs_eq_natAbs]
      rfl
    obtain ⟨h1, h2⟩ := roundTo_double mode (decide (n < 0)) n.natAbs k (by omega)
    rw [dround_of_ne mode zeroNeg n k h]
    generalize roundTo doubleFormat mode (decide (n < 0)) n.natAbs k = r at h1 h2 ⊢
    rw [← habs] at h1
    obtain ⟨c, g⟩ := r
    have hr : (n : ℚ) / 2 ^ k ≠ 0 := div_ne_zero (by exact_mod_cast h) hp.ne'
    have hn : (n : ℚ) / 2 ^ k < 0 ↔ decide (n < 0) = true := by
      rw [div_lt_iff₀ hp, zero_mul, decide_eq_true_iff]
      exact_mod_cast Iff.rfl
    exact DoubleRounds.of_ne hr hn h1 (doubleIs_code (decide (n < 0)) _ h2)

/- Exact cases. -/

/-- An integer rounds to itself in every mode. -/
theorem RoundsTo.integer {mode : BitVec 2} {neg : Bool} {N n : ℕ} (h : RoundsTo mode neg (N : ℚ) n) : n = N := by
  have key : (n : ℚ) - 1 < N → (N : ℚ) < n + 1 → n = N := by
    intro h1 h2
    have h1' : (n : ℚ) < N + 1 := by linarith
    norm_cast at h1' h2
    omega
  unfold RoundsTo at h
  split_ifs at h
  · have := abs_le.mp h.1
    exact key (by linarith) (by linarith)
  · exact key (by linarith) h.2
  · exact key h.1 (by linarith)

/-- A number that the format holds is delivered as it is, with no flag, in every mode. -/
theorem MagnitudeRounds.exact {fmt : Format} {mode : BitVec 2} {neg : Bool} {x : ℚ} {m : Option ℚ} {f : DoubleFlags}
    (h : MagnitudeRounds fmt mode neg x m f) (a : ℕ) (t : ℤ) (hx : x = a * (2 : ℚ) ^ t)
    (ha : a < 2 ^ (fmt.frac + 1)) (ht : -(fmt.least : ℤ) ≤ t) (hl : x ≤ fmt.largest) :
    m = some x ∧ f = DoubleFlags.none := by
  have two : (2 : ℚ) ≠ 0 := by norm_num
  obtain ⟨u, n, hu, -, hmin, hr, h⟩ := h
  have hut : u ≤ t := by
    rcases hmin with e | hmin
    · omega
    · by_contra hlt
      have h1 : x < (2 : ℚ) ^ ((fmt.frac : ℤ) + 1 + t) := by
        rw [hx, zpow_add₀ two]
        refine mul_lt_mul_of_pos_right ?_ (zpow_pos (by norm_num) _)
        exact_mod_cast ha
      have h2 : (2 : ℚ) ^ ((fmt.frac : ℤ) + 1 + t) ≤ (2 : ℚ) ^ (u + fmt.frac) :=
        zpow_le_zpow_right₀ (by norm_num) (by omega)
      linarith
  obtain ⟨d, hd⟩ : ∃ d : ℕ, t = u + d := ⟨(t - u).toNat, by omega⟩
  have hpos : (0 : ℚ) < 2 ^ u := zpow_pos (by norm_num) _
  have hxu : x / (2 : ℚ) ^ u = (a * 2 ^ d : ℕ) := by
    rw [hx, hd, zpow_add₀ two, zpow_natCast]
    push_cast
    field_simp
  rw [hxu] at hr
  have hn := hr.integer
  have hnx : (n : ℚ) * (2 : ℚ) ^ u = x := by
    rw [hn, ← hxu]
    field_simp
  rw [hnx, if_neg (not_lt.mpr hl)] at h
  simpa [DoubleFlags.none] using h

/- Values of operands. -/

theorem sx_eq (w : Word) : (sx w : ℚ) / 2 ^ 149 = singleValue w := by
  unfold sx singleValue
  by_cases h : sExp w = 0
  · simp [h]
  · rw [if_neg h, if_neg h]
    have e : ((sExp w : ℤ) - 150) = ((sExp w - 1 : ℕ) : ℤ) - (149 : ℕ) := by omega
    rw [e, zpow_sub₀ (by norm_num), zpow_natCast, zpow_natCast]
    unfold signed withSign
    split_ifs <;> push_cast <;> ring

theorem dMag_eq (d : Dword) : (dMag d : ℚ) / 2 ^ 1074 = doubleMagnitude d := by
  unfold dMag doubleMagnitude
  by_cases h : dExp d = 0
  · simp [h]
  · rw [if_neg h, if_neg h]
    have e : ((dExp d : ℤ) - 1075) = ((dExp d - 1 : ℕ) : ℤ) - (1074 : ℕ) := by omega
    rw [e, zpow_sub₀ (by norm_num), zpow_natCast, zpow_natCast]
    push_cast
    ring

theorem dValue_eq (d : Dword) : (dValue d : ℚ) / 2 ^ 1074 = doubleValue d := by
  unfold dValue doubleValue signed withSign
  rw [← dMag_eq]
  split_ifs <;> push_cast <;> ring

theorem ixMag_eq (w : Word) : (ixMag w : ℚ) / 2 ^ 149 = ieeeMagnitude w := by
  unfold ixMag ieeeMagnitude
  by_cases h : sExp w = 0
  · simp [h]
  · rw [if_neg h, if_neg h]
    have e : ((sExp w : ℤ) - 150) = ((sExp w - 1 : ℕ) : ℤ) - (149 : ℕ) := by omega
    rw [e, zpow_sub₀ (by norm_num), zpow_natCast, zpow_natCast]
    push_cast
    ring

/-- The value of the interpolation (R425). -/
theorem interpolate_eq (a b : Word) :
    (interpolate a b : ℚ) / 2 ^ 159 =
      withSign (b.getLsbD 31) ((1 + ((b.toNat / 2 ^ 10 % 2 ^ 13 : ℕ) : ℚ) / 2 ^ 13 -
        ((b.toNat % 2 ^ 10 : ℕ) : ℚ) / 2 ^ 13 * (((a.toNat % 2 ^ 19 : ℕ) : ℚ) / 2 ^ 19)) * 2 ^ ((sExp b : ℤ) - 127)) := by
  have h1 : (b.extractLsb' 10 13).toNat = b.toNat / 2 ^ 10 % 2 ^ 13 := by
    rw [BitVec.extractLsb'_toNat, Nat.shiftRight_eq_div_pow]
  have h2 : (b.extractLsb' 0 10).toNat = b.toNat % 2 ^ 10 := by
    rw [BitVec.extractLsb'_toNat, Nat.shiftRight_zero]
  have h3 : (a.extractLsb' 0 19).toNat = a.toNat % 2 ^ 19 := by
    rw [BitVec.extractLsb'_toNat, Nat.shiftRight_zero]
  unfold interpolate
  rw [h1, h2, h3]
  obtain ⟨base, hb⟩ : ∃ n, b.toNat / 2 ^ 10 % 2 ^ 13 = n := ⟨_, rfl⟩
  obtain ⟨st, hs⟩ : ∃ n, b.toNat % 2 ^ 10 = n := ⟨_, rfl⟩
  obtain ⟨y, hy⟩ : ∃ n, a.toNat % 2 ^ 19 = n := ⟨_, rfl⟩
  have hst : st < 2 ^ 10 := hs ▸ Nat.mod_lt _ (by norm_num)
  have hyl : y < 2 ^ 19 := hy ▸ Nat.mod_lt _ (by norm_num)
  have hle : st * y ≤ (2 ^ 13 + base) * 2 ^ 19 := by
    calc st * y ≤ 2 ^ 10 * 2 ^ 19 := Nat.mul_le_mul hst.le hyl.le
      _ ≤ _ := Nat.mul_le_mul_right _ (by omega)
  obtain ⟨d, hd⟩ := Nat.exists_eq_add_of_le hle
  have hq : ((2 : ℚ) ^ 13 + base) * 2 ^ 19 = st * y + d := by exact_mod_cast hd
  have hd' : (d : ℚ) = ((2 : ℚ) ^ 13 + base) * 2 ^ 19 - st * y := by linarith
  rw [hb, hs, hy, hd, Nat.add_sub_cancel_left]
  have e : ((sExp b : ℤ) - 127) = (sExp b : ℕ) - (127 : ℕ) := rfl
  rw [e, zpow_sub₀ (by norm_num), zpow_natCast, zpow_natCast]
  unfold signed withSign
  split_ifs <;> push_cast <;> rw [hd'] <;> ring

/- Single precision. -/

/-- `sround` is the rounding of the spec. -/
theorem sround_spec (n : ℤ) (k : ℕ) : SingleRounds ((n : ℚ) / 2 ^ k) (sround n k).1 (sround n k).2 := by
  have hp : (0 : ℚ) < 2 ^ k := by positivity
  have two : (2 : ℚ) ≠ 0 := by norm_num
  obtain ⟨m, hm⟩ : ∃ m, n.natAbs = m := ⟨_, rfl⟩
  have habs : |(n : ℚ) / 2 ^ k| = (m : ℚ) / 2 ^ k := by
    rw [abs_div, abs_of_pos hp, ← Int.cast_abs, Int.abs_eq_natAbs, hm, Int.cast_natCast]
  have hzero : (n : ℚ) / 2 ^ k = 0 ↔ m = 0 := by
    rw [div_eq_zero_iff]
    simp [hp.ne', ← hm]
  have hneg : decide ((n : ℚ) / 2 ^ k < 0) = decide (n < 0) := by
    refine decide_eq_decide.mpr ?_
    rw [div_lt_iff₀ hp, zero_mul]
    exact_mod_cast Iff.rfl
  have hmax : singleMax < (m : ℚ) / 2 ^ k ↔ (2 ^ 24 - 1) * 2 ^ (105 + k) < m := by
    rw [lt_div_iff₀ hp, ← Nat.cast_lt (α := ℚ), singleMax, pow_add]
    have : ((2 : ℚ) ^ 128 * (2 - 1 / 2 ^ 23)) * 2 ^ k = (((2 ^ 24 - 1) * (2 ^ 105 * 2 ^ k) : ℕ) : ℚ) := by
      push_cast
      ring
    rw [this]
  have hmin : (m : ℚ) / 2 ^ k < singleMin ↔ m * 2 ^ 126 < 2 ^ k := by
    rw [singleMin, div_lt_div_iff₀ hp (by positivity), one_mul, ← Nat.cast_lt (α := ℚ)]
    push_cast
    rfl
  unfold SingleRounds sround
  simp only [hm, habs, hneg, hzero, hmax, hmin]
  by_cases h0 : m = 0
  · simp [h0]
  rw [if_neg h0, if_neg h0]
  by_cases h1 : (2 ^ 24 - 1) * 2 ^ (105 + k) < m
  · rw [if_pos h1, if_pos h1]
    exact ⟨rfl, rfl⟩
  rw [if_neg h1, if_neg h1]
  by_cases h2 : m * 2 ^ 126 < 2 ^ k
  · rw [if_pos h2, if_pos h2]
    exact ⟨rfl, rfl⟩
  rw [if_neg h2, if_neg h2]
  have hlo : 2 ^ Nat.log2 m ≤ m := Nat.log2_self_le h0
  have hhi : m < 2 ^ (Nat.log2 m + 1) := Nat.lt_log2_self
  have hk : k ≤ Nat.log2 m + 126 := by
    by_contra h
    refine h2 ?_
    calc m * 2 ^ 126 < 2 ^ (Nat.log2 m + 1) * 2 ^ 126 := Nat.mul_lt_mul_of_pos_right hhi (by positivity)
      _ = 2 ^ (Nat.log2 m + 127) := by rw [← pow_add]
      _ ≤ 2 ^ k := Nat.pow_le_pow_right (by omega) (by omega)
  have hk2 : Nat.log2 m ≤ 128 + k := by
    by_contra h
    refine h1 ?_
    calc (2 ^ 24 - 1) * 2 ^ (105 + k) < 2 ^ 24 * 2 ^ (105 + k) :=
          Nat.mul_lt_mul_of_pos_right (by norm_num) (by positivity)
      _ = 2 ^ (129 + k) := by rw [← pow_add]; congr 1; omega
      _ ≤ 2 ^ Nat.log2 m := Nat.pow_le_pow_right (by omega) (by omega)
      _ ≤ m := hlo
  obtain ⟨e, he⟩ : ∃ e, Nat.log2 m + 127 - k = e := ⟨_, rfl⟩
  rw [he]
  refine ⟨e, m * 2 ^ 150 / 2 ^ (k + e), by omega, by omega, ?_, ?_, ?_, rfl, rfl⟩
  · rw [le_div_iff₀ hp, ← zpow_natCast, ← zpow_add₀ two]
    have : ((e : ℤ) - 127 + k) = (Nat.log2 m : ℕ) := by omega
    rw [this, zpow_natCast]
    exact_mod_cast hlo
  · rw [div_lt_iff₀ hp, ← zpow_natCast, ← zpow_add₀ two]
    have : ((e : ℤ) - 126 + k) = (Nat.log2 m + 1 : ℕ) := by omega
    rw [this, zpow_natCast]
    exact_mod_cast hhi
  · have : (m : ℚ) / 2 ^ k / (2 : ℚ) ^ ((e : ℤ) - 150) = (m * 2 ^ 150 : ℕ) / (2 ^ (k + e) : ℕ) := by
      have e1 : ((e : ℤ) - 150) = (e : ℤ) - (150 : ℕ) := rfl
      rw [e1, zpow_sub₀ two, zpow_natCast, zpow_natCast]
      push_cast
      rw [pow_add]
      field_simp
      norm_num
    rw [this, Rat.floor_natCast_div_natCast]
    rfl

/- The conversion of an IEEE single to a double. -/

theorem sFrac_lt (w : Word) : sFrac w < 2 ^ 23 := (w.extractLsb' 0 23).isLt

/-- A finite IEEE single as an integer over a power of two. -/
theorem ieeeMagnitude_form (w : Word) (h : sExp w ≠ 255) :
    ∃ (a : ℕ) (t : ℤ), ieeeMagnitude w = a * (2 : ℚ) ^ t ∧ a < 2 ^ 24 ∧ -149 ≤ t ∧ t ≤ 104 := by
  have hf := sFrac_lt w
  have he : sExp w < 256 := (w.extractLsb' 23 8).isLt
  unfold ieeeMagnitude
  split_ifs with h0
  · exact ⟨sFrac w, -149, by rw [zpow_neg, div_eq_mul_inv]; rfl, by omega, by omega, by omega⟩
  · exact ⟨2 ^ 23 + sFrac w, (sExp w : ℤ) - 150, by push_cast; rfl, by omega, by omega, by omega⟩

theorem singles_fit : (2 : ℚ) ^ 128 ≤ doubleFormat.largest := by
  have h : doubleFormat.largest = ((2 : ℚ) ^ 53 - 1) * (2 : ℚ) ^ (971 : ℤ) := rfl
  rw [h]
  have h1 : (2 : ℚ) ^ (128 : ℤ) ≤ (2 : ℚ) ^ (971 : ℤ) := zpow_le_zpow_right₀ (by norm_num) (by norm_num)
  calc (2 : ℚ) ^ 128 = 1 * (2 : ℚ) ^ (128 : ℤ) := by rw [one_mul]; rfl
    _ ≤ ((2 : ℚ) ^ 53 - 1) * (2 : ℚ) ^ (971 : ℤ) := mul_le_mul (by norm_num) h1 (by positivity) (by norm_num)

/-- The rounding `fesd` goes through is exact and sets no flag. -/
theorem dround_extend (neg : Bool) (w : Word) (he : sExp w ≠ 255) (h0 : ixMag w ≠ 0) :
    DoubleIs (dround 0b01#2 neg (signed neg (ixMag w)) 149).1 neg (some (ieeeMagnitude w)) ∧
      (dround 0b01#2 neg (signed neg (ixMag w)) 149).2 = DoubleFlags.none := by
  have hn : decide (signed neg (ixMag w) < 0) = neg := by
    cases neg <;> simp [signed] <;> omega
  have hne : signed neg (ixMag w) ≠ 0 := by
    cases neg <;> simp [signed] <;> omega
  have habs : (signed neg (ixMag w)).natAbs = ixMag w := by
    cases neg <;> simp [signed]
  obtain ⟨h1, h2⟩ := roundTo_double 0b01#2 neg (ixMag w) 149 h0
  rw [dround_of_ne _ _ _ _ hne, hn, habs]
  generalize roundTo doubleFormat 0b01#2 neg (ixMag w) 149 = r at h1 h2 ⊢
  obtain ⟨c, g⟩ := r
  rw [ixMag_eq] at h1
  obtain ⟨a, t, hx, ha, ht, ht'⟩ := ieeeMagnitude_form w he
  have hl : ieeeMagnitude w ≤ doubleFormat.largest := by
    refine le_trans ?_ singles_fit
    have h3 : (2 : ℚ) ^ t ≤ (2 : ℚ) ^ (104 : ℤ) := zpow_le_zpow_right₀ (by norm_num) ht'
    have h4 : (a : ℚ) ≤ (2 : ℚ) ^ (24 : ℕ) := by exact_mod_cast ha.le
    calc ieeeMagnitude w = a * (2 : ℚ) ^ t := hx
      _ ≤ (2 : ℚ) ^ (24 : ℕ) * (2 : ℚ) ^ (104 : ℤ) := mul_le_mul h4 h3 (by positivity) (by positivity)
      _ = (2 : ℚ) ^ 128 := by norm_num
  have hx' := h1.exact a t hx (ha.trans (by norm_num [doubleFormat])) (by have : (doubleFormat.least : ℤ) = 1074 := rfl; omega) hl
  have h3 := doubleIs_code neg c h2
  rw [hx'.1] at h3
  exact ⟨h3, hx'.2⟩

/-- `fesd` sets INV, NaN and DENORM alone (R404). -/
theorem extendToDouble_bits (cfg : Config) (w : Word) : doubleBits (extendToDouble cfg w).2 &&& ~~~0x700#32 = 0#32 := by
  have key (a b c : Bool) : doubleBits ⟨false, false, false, a, b, c⟩ &&& ~~~0x700#32 = 0#32 := by
    revert a b c
    decide
  unfold extendToDouble
  dsimp only
  by_cases hn : sNaN w = true
  · rw [if_pos hn]
    split_ifs <;> exact key ..
  rw [if_neg hn]
  by_cases he : sExp w = 255
  · rw [if_pos he]
    exact key ..
  rw [if_neg he]
  split_ifs with hz
  · exact key ..
  · have h0 : ixMag w ≠ 0 := fun h => hz (by simp [h])
    rw [(dround_extend _ w he h0).2]
    exact key ..

/- Sums and products of finite doubles. -/

theorem dFinite.notNaN {d : Dword} (h : dFinite d) : dNaN d = false := by
  simp only [dNaN, Bool.and_eq_false_iff, beq_eq_false_iff_ne]
  exact .inl h
theorem dFinite.notInf {d : Dword} (h : dFinite d) : dInf d = false := by
  simp only [dInf, Bool.and_eq_false_iff, beq_eq_false_iff_ne]
  exact .inl h

theorem dExp_dNeg (d : Dword) : dExp (dNeg d) = dExp d := by
  rw [dExp, dNeg, BitVec.extractLsb'_xor]
  simp [dExp]
theorem dFrac_dNeg (d : Dword) : dFrac (dNeg d) = dFrac d := by
  rw [dFrac, dNeg, BitVec.extractLsb'_xor]
  simp [dFrac]
theorem dSign_dNeg (d : Dword) : dSign (dNeg d) = !dSign d := by
  rw [dSign, dNeg, BitVec.getLsbD_xor]
  simp [dSign]
theorem dFinite.dNeg {d : Dword} (h : dFinite d) : dFinite (dNeg d) := by rwa [dFinite, dExp_dNeg]

theorem doubleValue_dNeg (d : Dword) : doubleValue (dNeg d) = -doubleValue d := by
  unfold doubleValue doubleMagnitude withSign
  rw [dExp_dNeg, dFrac_dNeg, dSign_dNeg]
  cases dSign d <;> simp

theorem zero_fields (neg : Bool) : dExp (zero neg) = 0 ∧ dFrac (zero neg) = 0 ∧ dSign (zero neg) = neg := by
  cases neg <;> decide

theorem dFinite.flush {d : Dword} (h : dFinite d) (cfg : Config) : dFinite (flush cfg d) := by
  unfold Machine.flush
  split
  · simp [dFinite, zero_fields]
  · exact h

/-- A sum of products of integers over powers of two, as a sum of products of rational numbers. -/
theorem scale_sum (A B C T : ℚ) (h : T ≠ 0) : (A * B + C * T) / (T * T) = A / T * (B / T) + C / T := by
  field_simp

theorem dAdd_finite (mode : BitVec 2) {a b : Dword} (ha : dFinite a) (hb : dFinite b) :
    DoubleRounds mode (zeroSumSign mode (dSign a) (dSign b)) (doubleValue a + doubleValue b) (dAdd mode a b).1
      (dAdd mode a b).2 := by
  have e : dAdd mode a b = dround mode (zeroSumSign mode (dSign a) (dSign b)) (dValue a + dValue b) 1074 := by
    simp only [dAdd, ha.notInf, hb.notInf, Bool.false_and, Bool.false_eq_true, if_false]
  rw [e, ← dValue_eq, ← dValue_eq, ← add_div, ← Int.cast_add]
  exact dround_spec ..

theorem dMul_finite (mode : BitVec 2) {a b : Dword} (ha : dFinite a) (hb : dFinite b) :
    DoubleRounds mode (dSign a != dSign b) (doubleValue a * doubleValue b) (dMul mode a b).1 (dMul mode a b).2 := by
  have e : dMul mode a b = dround mode (dSign a != dSign b) (dValue a * dValue b) 2148 := by
    simp only [dMul, ha.notInf, hb.notInf, Bool.false_and, Bool.and_false, Bool.or_false, Bool.false_eq_true, if_false]
  have hp : (2 : ℚ) ^ 2148 = 2 ^ 1074 * 2 ^ 1074 := pow_add 2 1074 1074
  rw [e, ← dValue_eq, ← dValue_eq, div_mul_div_comm, ← hp, ← Int.cast_mul]
  exact dround_spec ..

theorem dMadd_finite (mode : BitVec 2) {a b c : Dword} (ha : dFinite a) (hb : dFinite b) (hc : dFinite c) :
    DoubleRounds mode (zeroSumSign mode (dSign a != dSign b) (dSign c)) (doubleValue a * doubleValue b + doubleValue c)
      (dMadd mode a b c).1 (dMadd mode a b c).2 := by
  have e : dMadd mode a b c = dround mode (zeroSumSign mode (dSign a != dSign b) (dSign c))
      (dValue a * dValue b + dValue c * 2 ^ 1074) 2148 := by
    simp only [dMadd, ha.notInf, hb.notInf, hc.notInf, Bool.false_and, Bool.and_false, Bool.or_false,
      Bool.false_eq_true, if_false]
  have hp : (2 : ℚ) ^ 2148 = 2 ^ 1074 * 2 ^ 1074 := pow_add 2 1074 1074
  have hv : doubleValue a * doubleValue b + doubleValue c =
      ((dValue a * dValue b + dValue c * 2 ^ 1074 : ℤ) : ℚ) / 2 ^ 2148 := by
    rw [← dValue_eq, ← dValue_eq, ← dValue_eq, hp, ← scale_sum _ _ _ _ (pow_ne_zero _ two_ne_zero), Int.cast_add,
      Int.cast_mul, Int.cast_mul, Int.cast_pow, Int.cast_ofNat]
  rw [e, hv]
  exact dround_spec ..

/- Denormal operands. -/

/-- `flush` keeps an operand or replaces a denormal by the zero of its sign. -/
theorem flush_cases (cfg : Config) (d : Dword) :
    flush cfg d = d ∨ dExp d = 0 ∧ dFrac d ≠ 0 ∧ cfg.dpDenormInputZero = true ∧ flush cfg d = zero (dSign d) := by
  unfold flush
  split
  · rename_i h
    simp only [dDenormal, Bool.and_eq_true, beq_iff_eq, bne_iff_ne] at h
    exact .inr ⟨h.2.1, h.2.2, h.1, rfl⟩
  · exact .inl rfl

@[simp] theorem dNaN_flush (cfg : Config) (d : Dword) : dNaN (flush cfg d) = dNaN d := by
  rcases flush_cases cfg d with h | ⟨h0, -, -, h⟩ <;> rw [h]
  simp [dNaN, zero_fields, h0]
@[simp] theorem dSNaN_flush (cfg : Config) (d : Dword) : dSNaN (flush cfg d) = dSNaN d := by
  rcases flush_cases cfg d with h | ⟨h0, -, -, h⟩ <;> rw [h]
  simp [dSNaN, dNaN, zero_fields, h0]
@[simp] theorem dInf_flush (cfg : Config) (d : Dword) : dInf (flush cfg d) = dInf d := by
  rcases flush_cases cfg d with h | ⟨h0, -, -, h⟩ <;> rw [h]
  simp [dInf, zero_fields, h0]
@[simp] theorem dSign_flush (cfg : Config) (d : Dword) : dSign (flush cfg d) = dSign d := by
  rcases flush_cases cfg d with h | ⟨-, -, -, h⟩ <;> rw [h]
  simp [zero_fields]
theorem dInf_dNeg (d : Dword) : dInf (dNeg d) = dInf d := by rw [dInf, dInf, dExp_dNeg, dFrac_dNeg]

/- Comparing doubles. -/

theorem dFrac_lt (d : Dword) : dFrac d < 2 ^ 52 := (d.extractLsb' 0 52).isLt

/-- An infinity in units of 2^-1074 is beyond every finite magnitude. -/
theorem dMag_finite_lt {d : Dword} (h : dFinite d) : dMag d < 2 ^ 52 * 2 ^ 2046 := by
  have hf := dFrac_lt d
  have he : dExp d < 2048 := (d.extractLsb' 52 11).isLt
  have h' : dExp d ≠ 2047 := h
  unfold dMag
  split
  · exact hf.trans_le (Nat.le_mul_of_pos_right _ (Nat.two_pow_pos _))
  · calc (2 ^ 52 + dFrac d) * 2 ^ (dExp d - 1) < 2 ^ 53 * 2 ^ (dExp d - 1) :=
          Nat.mul_lt_mul_of_pos_right (by omega) (Nat.two_pow_pos _)
      _ ≤ 2 ^ 53 * 2 ^ 2045 := Nat.mul_le_mul_left _ (Nat.pow_le_pow_right (by norm_num) (by omega))
      _ = 2 ^ 52 * 2 ^ 2046 := by rw [← pow_add, ← pow_add]

theorem dMag_infinite {d : Dword} (h : dExp d = 2047) (hn : dNaN d = false) : dMag d = 2 ^ 52 * 2 ^ 2046 := by
  have hf : dFrac d = 0 := by
    simpa [dNaN, h] using hn
  rw [dMag, if_neg (by rw [h]; norm_num), h, hf, Nat.add_zero]

theorem dMag_lt_iff (a b : Dword) : dMag a < dMag b ↔ doubleMagnitude a < doubleMagnitude b := by
  rw [← dMag_eq, ← dMag_eq, div_lt_div_iff_of_pos_right (pow_pos two_pos _), Nat.cast_lt]

theorem doubleSize_lt_iff {a b : Dword} (ha : dNaN a = false) (hb : dNaN b = false) :
    doubleSize a < doubleSize b ↔ dMag a < dMag b := by
  unfold doubleSize
  by_cases h1 : dExp a = 2047
  · rw [if_pos h1, dMag_infinite h1 ha]
    simp only [not_top_lt, false_iff, not_lt]
    by_cases h2 : dExp b = 2047
    · exact (dMag_infinite h2 hb).le
    · exact (dMag_finite_lt h2).le
  · rw [if_neg h1]
    by_cases h2 : dExp b = 2047
    · rw [if_pos h2, dMag_infinite h2 hb]
      exact ⟨fun _ => dMag_finite_lt h1, fun _ => WithTop.coe_lt_top _⟩
    · rw [if_neg h2, WithTop.coe_lt_coe, dMag_lt_iff]

theorem dValue_lt_iff (a b : Dword) : dValue a < dValue b ↔ doubleValue a < doubleValue b := by
  rw [← dValue_eq, ← dValue_eq, div_lt_div_iff_of_pos_right (pow_pos two_pos _), Int.cast_lt]

/-- The values of the comparisons are ordered as the numbers are, infinities included. -/
theorem doubleOrder_lt_iff {a b : Dword} (ha : dNaN a = false) (hb : dNaN b = false) :
    doubleOrder a < doubleOrder b ↔ dValue a < dValue b := by
  obtain ⟨B, hB⟩ : ∃ B : ℕ, 2 ^ 52 * 2 ^ 2046 = B := ⟨_, rfl⟩
  have fin (d : Dword) (h : dExp d ≠ 2047) : -(B : ℤ) < dValue d ∧ dValue d < B := by
    have hm := dMag_finite_lt (d := d) h
    rw [hB] at hm
    unfold dValue signed
    split <;> omega
  have inf (d : Dword) (h : dExp d = 2047) (hn : dNaN d = false) : dValue d = if dSign d then -(B : ℤ) else B := by
    rw [dValue, dMag_infinite h hn, hB, signed]
  have hBpos : 0 < B := hB ▸ Nat.mul_pos (Nat.two_pow_pos _) (Nat.two_pow_pos _)
  clear hB
  unfold doubleOrder
  by_cases h1 : dExp a = 2047 <;> by_cases h2 : dExp b = 2047
  · rw [if_pos h1, if_pos h2, inf a h1 ha, inf b h2 hb]
    cases dSign a <;> cases dSign b <;> simp <;> omega
  · rw [if_pos h1, if_neg h2, inf a h1 ha]
    have := fin b h2
    cases dSign a <;> simp <;> omega
  · rw [if_neg h1, if_pos h2, inf b h2 hb]
    have := fin a h1
    cases dSign b
    · simp only [Bool.false_eq_true, if_false]
      exact ⟨fun _ => this.2, fun _ => WithBot.coe_lt_coe.mpr (WithTop.coe_lt_top _)⟩
    · simp only [if_true, not_lt_bot, false_iff, not_lt]
      exact this.1.le
  · rw [if_neg h1, if_neg h2, WithBot.coe_lt_coe, WithTop.coe_lt_coe, dValue_lt_iff]

end Sys2Proof.Machine
end

