-- ==== Sys2Proof/Laws/Memory.lean ====
section
/-!
SUPPORT. Local storage: a read after a write, what a write leaves alone, and the canonical form.
-/

set_option Elab.async false

namespace Sys2Proof.Machine

@[simp] theorem Memory.supplied_nil (a : Nat) : Memory.supplied [] a = none := rfl

theorem Memory.supplied_cons (c : Host.Cell) (m : Memory) (b : Nat) :
    Memory.supplied (c :: m) b = if c.1 = b then some c.2 else Memory.supplied m b := by
  unfold Memory.supplied
  by_cases h : c.1 = b <;> simp [h]

/-- A load sees the byte supplied. -/
theorem Memory.byteAt_of_supplied {m : Memory} {a : Nat} {v : Byte} (h : m.supplied a = some v) : m.byteAt a = v := by
  simp [byteAt, h]

/-- Where the same is supplied, a load sees the same. -/
theorem Memory.byteAt_congr {m n : Memory} {a : Nat} (h : m.supplied a = n.supplied a) : m.byteAt a = n.byteAt a := by
  rw [byteAt, byteAt, h]

theorem Memory.supplied_filter_ne (m : Memory) (a b : Nat) (hb : b ≠ a) :
    Memory.supplied (m.filter fun c => c.1 != a) b = m.supplied b := by
  induction m with
  | nil => rfl
  | cons c m ih =>
    by_cases h : c.1 = a
    · have hc : c.1 ≠ b := fun e => hb (e.symm.trans h)
      simp [h, supplied_cons, ih, hb.symm]
    · simp [h, supplied_cons, ih]

theorem Memory.supplied_insertCell (c : Host.Cell) (m : Memory) (h : ∀ d ∈ m, d.1 ≠ c.1) (b : Nat) :
    Memory.supplied (Memory.insertCell c m) b = if c.1 = b then some c.2 else m.supplied b := by
  induction m with
  | nil => simp [insertCell, supplied_cons]
  | cons d m ih =>
    have hd : d.1 ≠ c.1 := h d (by simp)
    have hm : ∀ e ∈ m, e.1 ≠ c.1 := fun e he => h e (by simp [he])
    unfold insertCell
    split
    · rw [supplied_cons]
    · rw [supplied_cons, supplied_cons, ih hm]
      by_cases h1 : d.1 = b <;> by_cases h2 : c.1 = b
      · exact absurd (h1.trans h2.symm) hd
      all_goals simp [h1, h2]

/-- A byte written is supplied, every other address is as before. -/
theorem Memory.supplied_setByte (m : Memory) (a : Nat) (v : Byte) (b : Nat) :
    (m.setByte a v).supplied b = if b = a then some v else m.supplied b := by
  unfold setByte
  rw [supplied_insertCell _ _ fun d hd => by simpa using (List.mem_filter.mp hd).2]
  by_cases hb : b = a
  · simp [hb]
  · simp [hb, Ne.symm hb, supplied_filter_ne _ _ _ hb]

theorem Memory.supplied_writeBytes (bs : List Byte) (m : Memory) (a b : Nat) :
    (m.writeBytes a bs).supplied b =
      if a ≤ b ∧ b < a + bs.length then some (bs.getD (b - a) 0) else m.supplied b := by
  induction bs generalizing m a with
  | nil =>
    have : ¬(a ≤ b ∧ b < a) := by omega
    simp [writeBytes, this]
  | cons x bs ih =>
    rw [writeBytes, ih, supplied_setByte]
    by_cases h : a + 1 ≤ b ∧ b < a + 1 + bs.length
    · have h' : a ≤ b ∧ b < a + (x :: bs).length := by simp; omega
      obtain ⟨k, rfl⟩ : ∃ k, b = a + 1 + k := ⟨b - (a + 1), by omega⟩
      have e1 : a + 1 + k - (a + 1) = k := by omega
      have e2 : a + 1 + k - a = k + 1 := by omega
      rw [if_pos h, if_pos h', e1, e2]
      rfl
    · by_cases hb : b = a
      · subst hb; simp
      · have h' : ¬(a ≤ b ∧ b < a + (x :: bs).length) := by simp; omega
        simp only [h, h', hb, if_false]

@[simp] theorem quadBytes_length (q : Quad) : (quadBytes q).length = 16 := by simp [quadBytes]

theorem quadBytes_getD (q : Quad) (j : Nat) (h : j < 16) : (quadBytes q).getD j 0 = byte q j := by
  simp [quadBytes, List.getD_eq_getElem?_getD, h]

/-- What stands at every address after a quadword is written (spec/20_memory.md R54). -/
theorem Memory.supplied_writeQuad (m : Memory) (a : Nat) (v : Quad) (b : Nat) :
    (m.writeQuad a v).supplied b = if a ≤ b ∧ b < a + 16 then some (byte v (b - a)) else m.supplied b := by
  rw [writeQuad, supplied_writeBytes, quadBytes_length]
  by_cases h : a ≤ b ∧ b < a + 16
  · simp only [h, if_true, and_self]
    rw [quadBytes_getD v (b - a) (by omega)]
  · simp only [h, if_false]

theorem Memory.supplied_writeQuad_out (m : Memory) (a : Nat) (v : Quad) (b : Nat) (h : ¬(a ≤ b ∧ b < a + 16)) :
    (m.writeQuad a v).supplied b = m.supplied b := by
  rw [supplied_writeQuad, if_neg h]

/-- What stands at every address after the first `n` selected bytes of a quadword are written. -/
theorem Memory.supplied_writeSelected (m : Memory) (a : Nat) (bytes : BitVec 16) (v : Quad) (n b : Nat) :
    (m.writeSelected a bytes v n).supplied b =
      if a ≤ b ∧ b < a + n ∧ bytes.getLsbD (15 - (b - a)) then some (byte v (b - a)) else m.supplied b := by
  induction n with
  | zero =>
    rw [writeSelected, if_neg]
    omega
  | succ n ih =>
    have hn : ∀ c, (if bytes.getLsbD (15 - n) then (m.writeSelected a bytes v n).setByte (a + n) (byte v n)
        else m.writeSelected a bytes v n).supplied c =
        if c = a + n ∧ bytes.getLsbD (15 - n) then some (byte v n) else (m.writeSelected a bytes v n).supplied c := by
      intro c
      by_cases h : bytes.getLsbD (15 - n) = true
      · simp [h, supplied_setByte]
      · simp [h]
    rw [writeSelected, hn, ih]
    by_cases hb : b = a + n
    · subst hb
      by_cases h : bytes.getLsbD (15 - n) = true <;> simp [h]
    · have e : (a ≤ b ∧ b < a + (n + 1) ∧ bytes.getLsbD (15 - (b - a))) ↔
          (a ≤ b ∧ b < a + n ∧ bytes.getLsbD (15 - (b - a))) := by
        constructor <;> rintro ⟨h1, h2, h3⟩ <;> exact ⟨h1, by omega, h3⟩
      simp only [hb, false_and, if_false, e]

theorem Memory.supplied_writeSelected_out (m : Memory) (a : Nat) (bytes : BitVec 16) (v : Quad) (b : Nat)
    (h : ¬(a ≤ b ∧ b < a + 16)) : (m.writeSelected a bytes v 16).supplied b = m.supplied b := by
  rw [supplied_writeSelected, if_neg]
  rintro ⟨h1, h2, -⟩
  exact h ⟨h1, h2⟩

theorem Memory.byte_quadAt (m : Memory) (a j : Nat) (h : j < 16) : byte (m.quadAt a) j = m.byteAt (a + j) :=
  byte_ofBytes _ j h

/-- A quadword written reads as written. -/
theorem Memory.quadAt_writeQuad_self (m : Memory) (a : Nat) (v : Quad) : (m.writeQuad a v).quadAt a = v := by
  apply quad_ext_bytes
  intro j h
  rw [byte_quadAt _ _ _ h]
  refine byteAt_of_supplied ?_
  rw [supplied_writeQuad, if_pos ⟨by omega, by omega⟩]
  congr 2
  omega

/-- A quadword that does not meet the one written reads as before. -/
theorem Memory.quadAt_writeQuad_disjoint (m : Memory) (a b : Nat) (v : Quad) (h : a + 16 ≤ b ∨ b + 16 ≤ a) :
    (m.writeQuad a v).quadAt b = m.quadAt b := by
  apply quad_ext_bytes
  intro j hj
  rw [byte_quadAt _ _ _ hj, byte_quadAt _ _ _ hj]
  exact byteAt_congr (supplied_writeQuad_out _ _ _ _ (by omega))

/-- The bytes of a quadword some of whose bytes were written. -/
theorem Memory.byte_quadAt_writeSelected (m : Memory) (a j : Nat) (bytes : BitVec 16) (v : Quad) (h : j < 16) :
    byte ((m.writeSelected a bytes v 16).quadAt a) j = if bytes.getLsbD (15 - j) then byte v j else m.byteAt (a + j) := by
  rw [byte_quadAt _ _ _ h, byteAt, supplied_writeSelected]
  simp only [Nat.le_add_right, Nat.add_lt_add_iff_left, h, true_and, Nat.add_sub_cancel_left]
  split <;> rfl

/- The canonical form. -/

theorem Memory.wf_cons (c : Host.Cell) (m : Memory) :
    Memory.wf (c :: m) = true ↔ (∀ d ∈ m, c.1 < d.1) ∧ Memory.wf m = true := by
  simp [wf]

theorem Memory.wf_filter (m : Memory) (p : Host.Cell → Bool) (h : m.wf = true) :
    Memory.wf (m.filter p) = true := by
  induction m with
  | nil => rfl
  | cons c m ih =>
    rw [wf_cons] at h
    by_cases hp : p c
    · simp only [List.filter_cons, hp, if_true]
      exact (wf_cons c _).mpr ⟨fun d hd => h.1 d (List.mem_filter.mp hd).1, ih h.2⟩
    · simpa [hp] using ih h.2

theorem Memory.mem_insertCell (c d : Host.Cell) (m : Memory) : d ∈ Memory.insertCell c m ↔ d = c ∨ d ∈ m := by
  induction m with
  | nil => simp [insertCell]
  | cons e m ih =>
    unfold insertCell
    split
    · simp
    · simp only [List.mem_cons, ih]; tauto

theorem Memory.wf_insertCell (c : Host.Cell) (m : Memory) (hm : m.wf = true)
    (hd : ∀ d ∈ m, d.1 ≠ c.1) : Memory.wf (Memory.insertCell c m) = true := by
  induction m with
  | nil => simp [insertCell, wf]
  | cons e m ih =>
    have hw := (wf_cons e m).mp hm
    unfold insertCell
    split
    · rename_i hlt
      refine (wf_cons c _).mpr ⟨?_, hm⟩
      intro d hd'
      rcases List.mem_cons.mp hd' with rfl | hd'
      · exact hlt
      · exact hlt.trans (hw.1 d hd')
    · rename_i hnlt
      have hne := hd e (by simp)
      refine (wf_cons e _).mpr ⟨?_, ih hw.2 fun d h => hd d (by simp [h])⟩
      intro d hd'
      rcases (mem_insertCell c d m).mp hd' with rfl | hd'
      · omega
      · exact hw.1 d hd'

theorem Memory.wf_setByte (m : Memory) (a : Nat) (v : Byte) (h : m.wf = true) : (m.setByte a v).wf = true :=
  wf_insertCell _ _ (wf_filter _ _ h) fun d hd => by simpa using (List.mem_filter.mp hd).2

theorem Memory.wf_writeBytes (bs : List Byte) (m : Memory) (a : Nat) (h : m.wf = true) :
    (m.writeBytes a bs).wf = true := by
  induction bs generalizing m a with
  | nil => exact h
  | cons x bs ih => exact ih _ _ (wf_setByte m a x h)

/-- A write keeps the canonical form. -/
theorem Memory.wf_writeQuad (m : Memory) (a : Nat) (v : Quad) (h : m.wf = true) : (m.writeQuad a v).wf = true :=
  wf_writeBytes _ _ _ h

theorem Memory.wf_writeSelected (m : Memory) (a : Nat) (bytes : BitVec 16) (v : Quad) (n : Nat) (h : m.wf = true) :
    (m.writeSelected a bytes v n).wf = true := by
  induction n with
  | zero => exact h
  | succ n ih =>
    rw [writeSelected]
    split
    · exact wf_setByte _ _ _ ih
    · exact ih

theorem reset_memory_wf : State.reset.ls.wf = true := rfl

theorem Memory.mem_setByte (m : Memory) (a : Nat) (v : Byte) (c : Host.Cell) (h : c ∈ m.setByte a v) :
    c.1 = a ∨ c ∈ m := by
  rcases (mem_insertCell _ _ _).mp h with rfl | h
  · exact .inl rfl
  · exact .inr (List.mem_filter.mp h).1

theorem Memory.mem_writeBytes (bs : List Byte) (m : Memory) (a : Nat) (c : Host.Cell)
    (h : c ∈ m.writeBytes a bs) : (a ≤ c.1 ∧ c.1 < a + bs.length) ∨ c ∈ m := by
  induction bs generalizing m a with
  | nil => exact .inr h
  | cons x bs ih =>
    rcases ih _ _ h with h | h
    · left; simp; omega
    · rcases mem_setByte _ _ _ _ h with h | h
      · left; simp; omega
      · exact .inr h

/-- A write of a quadword lists nothing outside it that was not listed. -/
theorem Memory.mem_writeQuad (m : Memory) (a : Nat) (v : Quad) (c : Host.Cell) (h : c ∈ m.writeQuad a v) :
    (a ≤ c.1 ∧ c.1 < a + 16) ∨ c ∈ m := by
  have := mem_writeBytes _ _ _ _ h
  rwa [quadBytes_length] at this

theorem Memory.mem_writeSelected (m : Memory) (a : Nat) (bytes : BitVec 16) (v : Quad) (n : Nat) (c : Host.Cell)
    (h : c ∈ m.writeSelected a bytes v n) : (a ≤ c.1 ∧ c.1 < a + n) ∨ c ∈ m := by
  induction n with
  | zero => exact .inr h
  | succ n ih =>
    rw [writeSelected] at h
    have up : (a ≤ c.1 ∧ c.1 < a + n) ∨ c ∈ m → (a ≤ c.1 ∧ c.1 < a + (n + 1)) ∨ c ∈ m :=
      Or.imp_left fun h => ⟨h.1, by omega⟩
    split at h
    · rcases mem_setByte _ _ _ _ h with h | h
      · left; omega
      · exact up (ih h)
    · exact up (ih h)

theorem Memory.supplied_of_mem (m : Memory) (h : m.wf = true) (c : Host.Cell) (hc : c ∈ m) :
    m.supplied c.1 = some c.2 := by
  induction m with
  | nil => cases hc
  | cons d m ih =>
    have hw := (wf_cons d m).mp h
    rcases List.mem_cons.mp hc with rfl | hc
    · simp [supplied_cons]
    · have : d.1 ≠ c.1 := Nat.ne_of_lt (hw.1 c hc)
      rw [supplied_cons, if_neg this, ih hw.2 hc]

theorem Memory.supplied_of_not_listed (m : Memory) (a : Nat) (h : ∀ c ∈ m, c.1 ≠ a) : m.supplied a = none := by
  induction m with
  | nil => rfl
  | cons c m ih =>
    rw [supplied_cons, if_neg (h c (by simp)), ih fun d hd => h d (by simp [hd])]

/-- Equal memories are equal data: two canonical forms in which the same is supplied are the same. -/
theorem Memory.ext_of_wf (m n : Memory) (hm : m.wf = true) (hn : n.wf = true)
    (h : ∀ a, m.supplied a = n.supplied a) : m = n := by
  induction m generalizing n with
  | nil =>
    cases n with
    | nil => rfl
    | cons d n =>
      have := (h d.1).trans (supplied_of_mem _ hn d (by simp))
      cases this
  | cons c m ih =>
    have hc := (wf_cons c m).mp hm
    cases n with
    | nil =>
      have := (h c.1).symm.trans (supplied_of_mem _ hm c (by simp))
      cases this
    | cons d n =>
      have hd := (wf_cons d n).mp hn
      have h1 := supplied_of_mem _ hm c (by simp)
      have h2 := supplied_of_mem _ hn d (by simp)
      have hcd : c.1 = d.1 := by
        rcases Nat.lt_trichotomy c.1 d.1 with hlt | he | hlt
        · rw [h, supplied_of_not_listed (d :: n) c.1] at h1
          · cases h1
          · intro e he
            rcases List.mem_cons.mp he with rfl | he
            · omega
            · have := hd.1 e he; omega
        · exact he
        · rw [← h, supplied_of_not_listed (c :: m) d.1] at h2
          · cases h2
          · intro e he
            rcases List.mem_cons.mp he with rfl | he
            · omega
            · have := hc.1 e he; omega
      have he : c = d := by
        rw [hcd, h, h2] at h1
        exact Prod.ext hcd (Option.some.inj h1).symm
      subst he
      congr 1
      refine ih n hc.2 hd.2 fun a => ?_
      by_cases ha : c.1 = a
      · subst ha
        rw [supplied_of_not_listed m _ fun e he => Nat.ne_of_gt (hc.1 e he),
          supplied_of_not_listed n _ fun e he => Nat.ne_of_gt (hd.1 e he)]
      · have := h a
        rwa [supplied_cons, supplied_cons, if_neg ha, if_neg ha] at this

/- Words of local storage. -/

theorem wordOfBytes_extract (w : Word) :
    wordOfBytes (w.extractLsb' 24 8) (w.extractLsb' 16 8) (w.extractLsb' 8 8) (w.extractLsb' 0 8) = w := by
  refine BitVec.eq_of_getLsbD_eq fun k hk => ?_
  simp only [wordOfBytes, BitVec.getLsbD_append, BitVec.getLsbD_extractLsb']
  split_ifs with h1 h2 h3
  · simp [h3]
  · simp [show k - 8 < 8 by omega, show 8 + (k - 8) = k by omega]
  · simp [show k - 16 < 8 by omega, show 16 + (k - 16) = k by omega]
  · simp [show k - 24 < 8 by omega, show 24 + (k - 24) = k by omega]

/-- Where the same is supplied, the same word is fetched. -/
theorem Memory.wordAt_congr {m n : Memory} {a : Nat} (h : ∀ j < 4, m.supplied (a + j) = n.supplied (a + j)) :
    m.wordAt a = n.wordAt a := by
  rw [wordAt, wordAt, ← h 1 (by omega), ← h 2 (by omega), ← h 3 (by omega), show m.supplied a = n.supplied a from
    h 0 (by omega)]

/-- The word whose four bytes are supplied. -/
theorem Memory.wordAt_of_supplied {m : Memory} {a : Nat} {b0 b1 b2 b3 : Byte} (h0 : m.supplied a = some b0)
    (h1 : m.supplied (a + 1) = some b1) (h2 : m.supplied (a + 2) = some b2) (h3 : m.supplied (a + 3) = some b3) :
    m.wordAt a = some (wordOfBytes b0 b1 b2 b3) := by
  simp only [wordAt, h0, h1, h2, h3]

/-- A word of which a byte is not supplied. -/
theorem Memory.wordAt_none {m : Memory} {a j : Nat} (hj : j < 4) (h : m.supplied (a + j) = none) : m.wordAt a = none := by
  unfold wordAt
  split
  · rename_i h0 h1 h2 h3
    interval_cases j <;> simp_all
  · rfl

/-- A word address of a quadword written holds that word of the value. -/
theorem Memory.wordAt_writeQuad (m : Memory) (a j : Nat) (v : Quad) (h : j < 4) :
    (m.writeQuad a v).wordAt (a + 4 * j) = some (word v j) := by
  have hb (i : Nat) (hi : i < 4) :
      (m.writeQuad a v).supplied (a + 4 * j + i) = some ((word v j).extractLsb' (24 - 8 * i) 8) := by
    rw [supplied_writeQuad, if_pos ⟨by omega, by omega⟩, byte_of_word _ _ _ h hi]
    congr 2
    omega
  exact (wordAt_of_supplied (hb 0 (by omega)) (hb 1 (by omega)) (hb 2 (by omega)) (hb 3 (by omega))).trans
    (congrArg some (wordOfBytes_extract (word v j)))

/-- A word outside the quadword written is as before. -/
theorem Memory.wordAt_writeQuad_out (m : Memory) (a b : Nat) (v : Quad) (h : b + 4 ≤ a ∨ a + 16 ≤ b) :
    (m.writeQuad a v).wordAt b = m.wordAt b :=
  wordAt_congr fun j hj => m.supplied_writeQuad_out a v _ (by omega)

/- The histories. -/

/-- A write in the quadword at `a` leaves every word that could be fetched fetchable (R73 (c)). -/
theorem State.fetchCandidates_performWrite (s : State) (w : Writer) (a b : Nat) (m : Memory) (ha : a % 16 = 0)
    (hb : b % 4 = 0) (hm : ∀ c, ¬(a ≤ c ∧ c < a + 16) → m.supplied c = s.ls.supplied c) :
    ∀ x ∈ s.fetchCandidates b, x ∈ (s.performWrite w a m).fetchCandidates b := by
  intro x hx
  rcases List.mem_cons.mp hx with rfl | hx
  · by_cases he : s.ls.wordAt b = m.wordAt b
    · rw [he]
      exact List.mem_cons_self
    · have hin : a ≤ b ∧ b < a + 16 := by
        by_contra hin
        exact he (Memory.wordAt_congr fun j hj => (hm _ (by omega)).symm)
      obtain ⟨j, rfl⟩ : ∃ j, b = a + 4 * j := ⟨(b - a) / 4, by omega⟩
      refine List.mem_cons_of_mem _ ?_
      simp only [fetchOlder, State.performWrite, List.filter_append, List.map_append, List.mem_append]
      refine .inl (List.mem_map.mpr ⟨⟨a + 4 * j, s.ls.wordAt (a + 4 * j)⟩, ?_, rfl⟩)
      refine List.mem_filter.mpr ⟨?_, by simp⟩
      exact List.mem_map.mpr ⟨j, List.mem_filter.mpr ⟨List.mem_range.mpr (by omega), by simpa using he⟩, rfl⟩
  · refine List.mem_cons_of_mem _ ?_
    simp only [fetchOlder, State.performWrite, List.filter_append, List.map_append, List.mem_append] at hx ⊢
    exact .inr hx

/-- A write from outside leaves every quadword that could be loaded loadable (R73 (a)). -/
theorem State.loadCandidates_external (s : State) (a : Nat) (m : Memory) :
    (s.performWrite .external a m).loadCandidates a = m.quadAt a :: s.loadCandidates a := by
  simp [State.loadCandidates, State.performWrite, loadOlder]

end Sys2Proof.Machine
end

