-- ==== Sys2Proof/Laws/Ops.lean ====
section
/-!
SUPPORT. What each shared operation can do, said once, in the terms of Safety.lean.
-/

set_option Elab.async false

namespace Sys2Proof.Machine

/- Frames. -/

theorem SameRest.refl (s : State) : SameRest s s :=
  ⟨fun _ => rfl, ⟨rfl, rfl, rfl, rfl, rfl, rfl, rfl⟩, ⟨rfl, rfl, rfl, rfl⟩, ⟨rfl, rfl⟩⟩

theorem SameRest.advance (s : State) : SameRest s s.advance :=
  ⟨fun _ => rfl, ⟨rfl, rfl, rfl, rfl, rfl, rfl, rfl⟩, ⟨rfl, rfl, rfl, rfl⟩, ⟨rfl, rfl⟩⟩

/-- The registers after a write: the target holds the value, every other register reads as before. -/
theorem SameRegsBut.setReg (s : State) (rt : Reg) (v : Quad) : SameRegsBut rt s (s.setReg rt v).advance := by
  intro r h
  simp [State.reg_setReg_ne s rt r v h]

theorem RegFrame.setReg (s : State) (rt : Reg) (v : Quad) : RegFrame rt s (s.setReg rt v).advance :=
  ⟨SameRegsBut.setReg s rt v, rfl, rfl,
    ⟨fun _ => rfl, ⟨rfl, rfl, rfl, rfl, rfl, rfl, rfl⟩, ⟨rfl, rfl, rfl, rfl⟩, ⟨rfl, rfl⟩⟩⟩

/-- An instruction whose meaning is `write rt v` writes `v`. -/
theorem Writes.of_write {i : Instr} {s : State} {rt : Reg} {v : Quad} {P : Quad → Prop}
    (he : exec i s = s.write rt v) (hp : P v) : Writes i s rt P :=
  ⟨(s.setReg rt v).advance, he, RegFrame.setReg s rt v, by simpa using hp⟩

/-- An instruction whose meaning is `writeFlags rt v flags` writes `v` and ORs `flags` into FPSCR. -/
theorem WritesFlags.of_writeFlags {i : Instr} {s : State} {rt : Reg} {v flags : Quad} {P : Quad → Quad → Prop}
    (he : exec i s = s.writeFlags rt v flags) (hp : P v flags) : WritesFlags i s rt P := by
  refine ⟨((s.addFlags flags).setReg rt v).advance, flags, he, ⟨?_, rfl, rfl, ?_⟩, by simpa using hp⟩
  · intro r h
    rw [SameRegsBut.setReg (s.addFlags flags) rt v r h]
    simp
  · exact ⟨fun _ => rfl, ⟨rfl, rfl, rfl, rfl, rfl, rfl, rfl⟩, ⟨rfl, rfl, rfl, rfl⟩, ⟨rfl, rfl⟩⟩

/-- Only pc changes. -/
theorem PcFrame.setPc (s : State) (pc : Word) : PcFrame pc s { s with pc := pc } :=
  ⟨rfl, fun _ => rfl, rfl, rfl,
    ⟨fun _ => rfl, ⟨rfl, rfl, rfl, rfl, rfl, rfl, rfl⟩, ⟨rfl, rfl, rfl, rfl⟩, ⟨rfl, rfl⟩⟩⟩

theorem PcFrame.advance (s : State) : PcFrame ((s.pc + 4#32) &&& s.lslr) s s.advance := PcFrame.setPc s _

theorem GoesTo.of_branchIf {i : Instr} {s : State} {c : Bool} {target : Word}
    (he : exec i s = s.branchIf c target) : GoesTo i s (if c then target else (s.pc + 4#32) &&& s.lslr) := by
  refine ⟨_, he, ?_⟩
  cases c
  · exact PcFrame.advance s
  · exact PcFrame.setPc s target

theorem GoesTo.of_advance {i : Instr} {s : State} (he : exec i s = .next s.advance) :
    GoesTo i s ((s.pc + 4#32) &&& s.lslr) := ⟨_, he, PcFrame.advance s⟩

/- The link. -/

theorem State.link_pref (s : State) : pref s.link = (s.pc + 4#32) &&& s.lslr := pref_prefQuad _
theorem State.link_rest (s : State) (j : Nat) (h : 0 < j) (h4 : j < 4) : word s.link j = 0#32 :=
  word_prefQuad _ j h h4

theorem LinksTo.of_branchIf {i : Instr} {s : State} {rt : Reg} {target : Word}
    (he : exec i s = (s.setReg rt s.link).branchIf true target) : LinksTo i s rt target := by
  refine ⟨_, he, ⟨?_, rfl, rfl, ?_⟩, rfl, ?_, ?_⟩
  · exact fun r h => (State.reg_congr rfl r).trans (State.reg_setReg_ne s rt r _ h)
  · exact ⟨fun _ => rfl, ⟨rfl, rfl, rfl, rfl, rfl, rfl, rfl⟩, ⟨rfl, rfl, rfl, rfl⟩, ⟨rfl, rfl⟩⟩
  · exact (congrArg pref ((State.reg_congr rfl rt).trans (State.reg_setReg_self s rt _))).trans s.link_pref
  · intro j h h4
    exact (congrArg (word · j) ((State.reg_congr rfl rt).trans (State.reg_setReg_self s rt _))).trans
      (s.link_rest j h h4)

/- Indirect branches. -/

theorem newIe_eq_ieAfter (d e ie : Bool) (h : (d && e) = false) : newIe d e ie = ieAfter d e ie := by
  cases d <;> cases e <;> simp_all [newIe, ieAfter]

/-- A taken indirect branch stops on D = E = 1, otherwise it sets pc and IE. -/
theorem State.branchIndirect_cases (s : State) (d e : Bool) (target : Word) :
    (d = true ∧ e = true ∧ s.branchIndirect d e target = .fault (.undefinedBranch s.pc)) ∨
    ((d && e) = false ∧ s.branchIndirect d e target = .next { s with pc := target, ie := ieAfter d e s.ie }) := by
  unfold State.branchIndirect
  cases d <;> cases e <;> simp [newIe, ieAfter]

theorem BranchFrame.setPcIe (s : State) (pc : Word) (ie : Bool) : BranchFrame pc ie s { s with pc := pc, ie := ie } :=
  ⟨rfl, rfl, rfl, fun _ => rfl, rfl, rfl, rfl, rfl, rfl, rfl, ⟨rfl, rfl, rfl, rfl⟩, ⟨rfl, rfl⟩⟩

/- Halts and stops. -/

theorem State.stopWith_frame (s : State) (ev : StopEvent) : StopFrame s.pc ev s (s.stopWith ev) := by
  constructor <;> first | simp | skip
  · exact fun r => by simp
  · exact fun a => by simp
  · exact ⟨by simp, by simp, by simp, by simp⟩

theorem HaltsIf.of_haltIf {i : Instr} {s : State} {c : Bool} (he : exec i s = s.haltIf c) : HaltsIf i s (c = true) := by
  constructor
  · intro h
    refine ⟨_, he, ?_⟩
    simp only [h]
    exact PcFrame.advance s
  · intro h
    refine ⟨_, he, ?_⟩
    simp only [h]
    exact s.stopWith_frame _

/- Loads and stores. -/

/-- A choice is one of the values, and it changes nothing but the count of free values. -/
theorem State.choose_spec {α : Type} (s : State) (newest : α) (older : List α) :
    (s.choose newest older).1 ∈ newest :: older ∧
      ((s.choose newest older).2 = s ∨ (s.choose newest older).2 = s.takeFree) := by
  unfold State.choose
  cases older with
  | nil => simp
  | cons o os =>
    refine ⟨?_, .inr rfl⟩
    have h : Config.freeChoice s.free % ((o :: os).length + 1) < (newest :: o :: os).length :=
      Nat.mod_lt _ (by simp)
    simp only [List.getD_eq_getElem?_getD, List.getElem?_eq_getElem h, Option.getD_some]
    exact List.getElem_mem h

/-- With one value to see there is no choice. -/
theorem State.load_settled (s : State) (ea : Word) (h : loadOlder (lsa s.lslr ea).toNat s.dataHist = []) :
    s.load ea = (s.ls.quadAt (lsa s.lslr ea).toNat, s) := by
  simp [State.load, State.choose, h]

theorem Loads.of_loadTo {i : Instr} {s : State} {rt : Reg} {ea : Word} (he : exec i s = s.loadTo rt ea) :
    Loads i s rt ea := by
  intro h
  rw [State.loadTo, State.load_settled s ea h] at he
  exact Writes.of_write he fun j hj => Memory.byte_quadAt _ _ j hj

theorem LoadsSome.of_loadTo {i : Instr} {s : State} {rt : Reg} {ea : Word} (he : exec i s = s.loadTo rt ea) :
    LoadsSome i s rt ea := by
  have hc := s.choose_spec (s.ls.quadAt (lsa s.lslr ea).toNat) (loadOlder (lsa s.lslr ea).toNat s.dataHist)
  refine ⟨_, he, ?_, ?_, ?_, ?_⟩
  · intro r h
    refine (SameRegsBut.setReg _ rt _ r h).trans ?_
    rcases hc.2 with e | e <;> simp [State.load, e]
  · rcases hc.2 with e | e <;> simp [State.load, e]
  · rcases hc.2 with e | e <;> simp only [State.load, e] <;>
      exact ⟨fun _ => rfl, ⟨rfl, rfl, rfl, rfl, rfl, rfl, rfl⟩, ⟨rfl, rfl, rfl, rfl⟩, ⟨rfl, rfl⟩⟩
  · simpa [State.load, State.loadCandidates] using hc.1

theorem Stores.of_storeFrom {i : Instr} {s : State} {rt : Reg} {ea : Word} (he : exec i s = s.storeFrom rt ea) :
    Stores i s rt (lsa s.lslr ea).toNat := by
  have hm : (s.store ea (s.reg rt)).advance.ls = s.ls.writeQuad (lsa s.lslr ea).toNat (s.reg rt) := by simp
  refine ⟨_, he, ⟨fun r => by simp, by simp, by simp, ?_, ?_, ?_⟩, ?_⟩
  · intro b hb
    rw [hm, Memory.supplied_writeQuad_out _ _ _ b hb]
  · constructor <;> simp
  · constructor <;> simp
  · intro j hj
    rw [hm, Memory.supplied_writeQuad, if_pos ⟨by omega, by omega⟩, Nat.add_sub_cancel_left]

/-- After a store the SPU's own load of that quadword has one value to see. -/
theorem State.load_store (s : State) (ea : Word) (v : Quad) : ((s.store ea v).load ea).1 = v := by
  have h : loadOlder (lsa s.lslr ea).toNat (s.store ea v).dataHist = [] := by simp [loadOlder]
  rw [State.load_settled _ ea (by rw [State.store_lslr]; exact h), State.store_lslr, State.store_ls]
  exact Memory.quadAt_writeQuad_self _ _ _

end Sys2Proof.Machine
end

