-- ==== Sys2Proof/Laws/FloatOps.lean ====
section
/-!
SUPPORT. What the two floating-point units and the format conversions deliver, said once for each.
-/

set_option Elab.async false

namespace Sys2Proof.Machine

/- Single precision. -/

/-- What FP_SINGLE delivers, in the reference instance and in another. -/
theorem fpSingle_spec (cfg : Config) (op : SingleOp) (a b c : Word) (inputs : List Word) (r : ℚ)
   (h : inputs = singleInputs op a b c) (hr : ((singleExact op a b c).1 : ℚ) / 2 ^ (singleExact op a b c).2 = r) :
   SingleDelivers cfg op a b c inputs r (fpSingle cfg op a b c).1 (fpSingle cfg op a b c).2 := by
  constructor
  · intro hc
    have e : fpSingle cfg op a b c = singleReference op a b c := by simp [fpSingle, hc]
    rw [e]
    refine ⟨(sround (singleExact op a b c).1 (singleExact op a b c).2).2, ?_, ?_⟩
    · rw [← hr]; exact sround_spec _ _
    · subst h; rfl
  · intro hc
    simp [fpSingle, hc]

/-- The truncated value of a conversion to integer. -/
theorem truncated_spec (w : Word) (n : Nat) : TruncatesTo |singleValue w * 2^n| (truncated w n) := by
  have h : |singleValue w * 2^n| = ((sx w).natAbs * 2^n : ℕ) / (2^149 : ℕ) := by
    rw [← sx_eq, abs_mul, abs_div]
    have : |((sx w : ℤ) : ℚ)| = ((sx w).natAbs : ℚ) := by rw [← Int.cast_abs, Int.abs_eq_natAbs]; rfl
    rw [this, abs_of_pos (by positivity), abs_of_pos (by positivity)]
    push_cast; ring
  rw [h, truncated]
  generalize (sx w).natAbs * 2^n = N
  have hp : 0 < 2^149 := by positivity
  constructor
  · exact Nat.cast_div_le
  · rw [div_lt_iff₀ (by positivity)]
    have := Nat.lt_div_mul_add (a := N) hp
    have h2 : N < (N / 2^149 + 1) * 2^149 := by rw [Nat.add_mul]; omega
    exact_mod_cast h2

theorem singleValue_scaled_neg_iff (w : Word) (n : ℕ) : singleValue w * 2^n < 0 ↔ sx w < 0 := by
  rw [← sx_eq, mul_comm, mul_neg_iff]
  have : (0:ℚ) < 2^n := by positivity
  simp [this, this.not_gt, div_neg_iff]

/-- The DBZ bits of the four slices. -/
theorem dbzQuad_getLsbD (z : Nat → Bool) : ∀ n < 128,
    (dbzQuad z).getLsbD n = (decide (8 ≤ n ∧ n ≤ 11) && z (11 - n)) := by
  have h : ∀ a b c d : Bool, ∀ n < 128,
      (dbzQuad fun k => if k = 0 then a else if k = 1 then b else if k = 2 then c else d).getLsbD n =
        (decide (8 ≤ n ∧ n ≤ 11) && if n = 11 then a else if n = 10 then b else if n = 9 then c else d) := by
    decide +kernel
  intro n hn
  have e : dbzQuad z = dbzQuad fun k => if k = 0 then z 0 else if k = 1 then z 1 else if k = 2 then z 2 else z 3 := by
    simp [dbzQuad, ofWords]
  rw [e, h _ _ _ _ n hn]
  by_cases h8 : 8 ≤ n ∧ n ≤ 11
  · obtain ⟨h1, h2⟩ := h8
    interval_cases n <;> simp
  · simp [h8]

/- Double precision. -/

/-- The result of an operation on finite doubles. -/
theorem dresult_finite (cfg : Config) (op : DoubleOp) (mode : BitVec 2) (a b c : Dword) (ha : dFinite a) (hb : dFinite b)
   (hc : (op = .madd ∨ op = .msub) → dFinite c) :
   DoubleRounds mode (doubleZeroSign op mode a b c) (doubleExact op a b c) (dresult cfg op mode a b c).1 (dresult cfg op mode a b c).2 := by
  have hn : (doubleInputs op a b c).any dNaN = false := by
    cases op <;> simp [doubleInputs, ha.notNaN, hb.notNaN]
    · exact (hc (by simp)).notNaN
    · exact (hc (by simp)).notNaN
  unfold dresult
  rw [hn]
  simp only [Bool.false_eq_true, if_false]
  cases op with
  | add => exact dAdd_finite mode ha hb
  | sub =>
    have := dAdd_finite mode ha hb.dNeg
    rw [doubleValue_dNeg, ← sub_eq_add_neg, dSign_dNeg] at this
    exact this
  | mul => exact dMul_finite mode ha hb
  | madd =>
    have := dMadd_finite mode ha hb (hc (by simp))
    have e : zeroSumSign mode (dSign a != dSign b) (dSign c) = doubleZeroSign .madd mode a b c := by
      simp only [doubleZeroSign, zeroSumSign]; split_ifs with h <;> simp_all
    rw [e] at this
    exact this
  | msub =>
    have := dMadd_finite mode ha hb (hc (by simp)).dNeg
    rw [doubleValue_dNeg, ← sub_eq_add_neg, dSign_dNeg] at this
    have e : zeroSumSign mode (dSign a != dSign b) (!dSign c) = doubleZeroSign .msub mode a b c := by
      simp only [doubleZeroSign, zeroSumSign]; split_ifs with h <;> simp_all
    rw [e] at this
    exact this

theorem doubleInputs_flush (cfg : Config) (op : DoubleOp) (a b c : Dword) :
    doubleInputs op (flush cfg a) (flush cfg b) (flush cfg c) = (doubleInputs op a b c).map (flush cfg) := by
  cases op <;> rfl

theorem dNaN_of_dInf {d} (h : dInf d = true) : dNaN d = false := by simp [dInf] at h; simp [dNaN, h]
theorem dNaN_of_dZero_flush {cfg d} (h : dZero (flush cfg d) = true) : dNaN d = false := by rw [← dNaN_flush cfg]; simp [dZero] at h; simp [dNaN, h]
theorem dNaN_of_dExp {d} (h : dExp d ≠ 2047) : dNaN d = false := by simp [dNaN, h]

/-- A NaN made quiet is a quiet NaN, and a quiet one stays as it is. -/
theorem quietNaN_spec (q : Dword) {x : Dword} (h : dNaN x = true) :
    dNaN (quietNaN q x) = true ∧ dSNaN (quietNaN q x) = false ∧ (dSNaN x = false → quietNaN q x = x) := by
  by_cases hs : dSNaN x = true
  · have e : (q ||| 0x7FF8000000000000#64).extractLsb' 52 11 = 0x7FF#11 := by
      rw [BitVec.extractLsb'_or, show (0x7FF8000000000000#64).extractLsb' 52 11 = BitVec.allOnes 11 from rfl,
        BitVec.or_allOnes]
      rfl
    have b : (q ||| 0x7FF8000000000000#64).getLsbD 51 = true := by
      rw [BitVec.getLsbD_or, show (0x7FF8000000000000#64).getLsbD 51 = true from rfl, Bool.or_true]
    have f : dFrac (q ||| 0x7FF8000000000000#64) ≠ 0 := fun h0 => by
      have := congrArg (·.getLsbD 51) (BitVec.eq_of_toNat_eq (y := 0#52) h0)
      simp at this
    have n : dNaN (q ||| 0x7FF8000000000000#64) = true := by
      rw [dNaN, dExp, e, Bool.and_eq_true, bne_iff_ne]
      exact ⟨rfl, f⟩
    rw [quietNaN, if_pos hs, dSNaN, n, b]
    exact ⟨rfl, rfl, fun h => absurd hs (by rw [h]; simp)⟩
  · rw [quietNaN, if_neg hs]
    exact ⟨h, by simpa using hs, fun _ => rfl⟩

/-- With a NaN among its inputs an operation that propagates delivers one of them, made quiet, and no flag but INV. -/
theorem nanResult_propagates {cfg : Config} (hc : cfg.dpNanDefault = false) (op : DoubleOp) (a b c : Dword)
    (h : (doubleInputs op a b c).any dNaN = true) :
    ∃ x ∈ doubleInputs op a b c, ∃ p, nanResult cfg op a b c =
        (p, ⟨false, false, false, (doubleInputs op a b c).any dSNaN, false, false⟩) ∧
      dNaN x = true ∧ dNaN p = true ∧ dSNaN p = false ∧ (dSNaN x = false → p = x) := by
  have hne : (doubleInputs op a b c).filter dNaN ≠ [] := by
    obtain ⟨x, hx, hn⟩ := List.any_eq_true.mp h
    exact List.ne_nil_of_mem (List.mem_filter.mpr ⟨hx, hn⟩)
  have hlt := Nat.mod_lt (Config.dpNanChoice op a b c) (List.length_pos_of_ne_nil hne)
  obtain ⟨hx, hn⟩ := List.mem_filter.mp (List.getElem_mem hlt)
  refine ⟨_, hx, _, ?_, hn, quietNaN_spec (Config.dpNanQuieted op a b c) hn⟩
  rw [nanResult]
  simp only [hc, Bool.false_eq_true, if_false]
  rw [List.getD_eq_getElem _ _ hlt]
/-- The invalid cases of a multiply-add. -/
theorem dMadd_invalid {mode cfg a b t} (ht : (dInf a = true ∧ dZero (flush cfg b) = true ∨ dZero (flush cfg a) = true ∧ dInf b = true) ∨ (dInf a = true ∧ dExp b ≠ 2047 ∨ dInf b = true ∧ dExp a ≠ 2047 ∨
      dInf a = true ∧ dInf b = true) ∧ dInf t = true ∧ (dSign a != dSign b) ≠ dSign t) (t') (h1 : dInf t' = dInf t) (h2 : dSign t' = dSign t) :
   (dNaN a = false ∧ dNaN b = false) ∧ dMadd mode (flush cfg a) (flush cfg b) t' = invalidResult := by
  constructor
  · rcases ht with (⟨h, h'⟩ | ⟨h, h'⟩) | ⟨⟨h, h'⟩ | ⟨h, h'⟩ | ⟨h, h'⟩, -⟩
    · exact ⟨dNaN_of_dInf h, dNaN_of_dZero_flush h'⟩
    · exact ⟨dNaN_of_dZero_flush h, dNaN_of_dInf h'⟩
    · exact ⟨dNaN_of_dInf h, dNaN_of_dExp h'⟩
    · exact ⟨dNaN_of_dExp h', dNaN_of_dInf h⟩
    · exact ⟨dNaN_of_dInf h, dNaN_of_dInf h'⟩
  · unfold dMadd
    simp only [dInf_flush, dSign_flush, h1, h2]
    rcases ht with (⟨h, h'⟩ | ⟨h, h'⟩) | ⟨h, h3, h4⟩
    · simp [h, h']
    · simp [h, h']
    · split
      · rfl
      · have : (dInf a || dInf b) = true := by rcases h with ⟨h, -⟩ | ⟨h, -⟩ | ⟨h, -⟩ <;> simp [h]
        rw [if_pos this, if_pos]
        simp only [h3, Bool.true_and]; rw [bne_iff_ne]; exact fun e => h4 e.symm

/-- `fesd` of one slice. -/
theorem extendToDouble_spec (cfg : Config) (w : Word) : 
      (let lost := cfg.dpDenormInputZero && sDenormal w
      (sExp w ≠ 255 → dSign (extendToDouble cfg w).1 = w.getLsbD 31 ∧ dFinite (extendToDouble cfg w).1 ∧
        doubleMagnitude (extendToDouble cfg w).1 = (if lost = true then 0 else ieeeMagnitude w) ∧
        (extendToDouble cfg w).2 = { DoubleFlags.none with denorm := lost }) ∧
      (sExp w = 255 → sFrac w = 0 → (extendToDouble cfg w).1 = infinity (w.getLsbD 31) ∧ (extendToDouble cfg w).2 = DoubleFlags.none) ∧
      (sExp w = 255 → sFrac w ≠ 0 → cfg.dpNanDefault = true →
        (extendToDouble cfg w).1 = 0x7FF8000000000000#64 ∧ (extendToDouble cfg w).2 = ⟨false, false, false, !w.getLsbD 22, true, false⟩)) := by
    refine ⟨fun h => ?_, fun h h0 => ?_, fun h h0 hd => ?_⟩
    · have hn : sNaN w = false := by simp [sNaN, h]
      unfold extendToDouble
      simp only [hn, if_neg h, Bool.false_eq_true, if_false]
      by_cases hz : (cfg.dpDenormInputZero && sDenormal w || ixMag w == 0) = true
      · rw [if_pos hz]
        refine ⟨(zero_fields _).2.2, ?_, ?_, rfl⟩
        · simp [dFinite, zero_fields]
        · simp only [doubleMagnitude, zero_fields, if_true]
          simp only [Bool.or_eq_true] at hz
          split_ifs with h1
          · simp
          · have := hz.resolve_left h1
            rw [← ixMag_eq, beq_iff_eq.mp this]; simp
      · rw [if_neg hz]
        simp only [Bool.or_eq_true, not_or, Bool.not_eq_true] at hz
        obtain ⟨h1, h2⟩ := dround_extend (w.getLsbD 31) w h (by simpa using hz.2)
        refine ⟨h1.1, h1.2.1, ?_, ?_⟩
        · rw [hz.1]; simpa using h1.2.2
        · rw [h2, hz.1]; rfl
    · have hn : sNaN w = false := by simp [sNaN, h0]
      unfold extendToDouble
      simp [hn, h]
    · have hn : sNaN w = true := by simp [sNaN, h, h0]
      unfold extendToDouble
      simp [hn, hd, defaultNaN]

/-- `frds` of one slice. -/
theorem roundToSingle_spec (cfg : Config) (mode : BitVec 2) (d0 d : Dword) (lost : Bool) (h1 : flush cfg d0 = d) (h2 : flushed cfg d0 = lost) (w : Word) (f : DoubleFlags)
    (hr : roundToSingle cfg mode d0 = (w, f)) :
        (dFinite d → doubleMagnitude d = 0 → w = BitVec.ofBool (dSign d) ++ 0#31 ∧
          f = { DoubleFlags.none with denorm := lost }) ∧
        (dFinite d → doubleMagnitude d ≠ 0 → ∃ m,
          MagnitudeRounds singleFormat mode (dSign d) (doubleMagnitude d) m f ∧ SingleIs w (dSign d) m) ∧
        (dInf d = true → w = BitVec.ofBool (dSign d) ++ 0x7F800000#31 ∧ f = DoubleFlags.none) ∧
        (dNaN d = true → cfg.dpNanDefault = true →
          w = 0x7FC00000#32 ∧ f = ⟨false, false, false, dSNaN d, true, false⟩) := by
    have hmag : dMag d = 0 ↔ doubleMagnitude d = 0 := by
      rw [← dMag_eq, div_eq_zero_iff]; simp
    unfold roundToSingle at hr
    rw [h1, h2] at hr
    clear h1 h2
    refine ⟨fun hfi h0 => ?_, fun hfi h0 => ?_, fun hi => ?_, fun hn hd => ?_⟩
    · simp only [hfi.notNaN, hfi.notInf, hmag.mpr h0, Bool.false_eq_true, if_false, if_true, Prod.mk.injEq] at hr
      exact ⟨hr.1.symm, hr.2.symm⟩
    · obtain ⟨h1, h2⟩ := roundTo_single mode (dSign d) (dMag d) 1074 (fun h => h0 (hmag.mp h))
      simp only [hfi.notNaN, hfi.notInf, if_neg (fun h => h0 (hmag.mp h)), Bool.false_eq_true, if_false, Prod.mk.injEq] at hr
      rw [dMag_eq] at h1
      rw [← hr.1, ← hr.2]
      exact ⟨_, h1, singleIs_code _ _ h2⟩
    · have hn : dNaN d = false := by
        simp only [dInf, Bool.and_eq_true, beq_iff_eq] at hi; simp [dNaN, hi]
      simp only [hn, hi, Bool.false_eq_true, if_false, if_true, Prod.mk.injEq] at hr
      exact ⟨hr.1.symm, hr.2.symm⟩
    · simp only [hn, hd, if_true, Prod.mk.injEq] at hr
      exact ⟨hr.1.symm, hr.2.symm⟩

theorem DoubleSlices.mono {i : Instr} {s : State} {rt : Reg} {P Q : Nat → Dword → DoubleFlags → Prop}
    (h : DoubleSlices i s rt P) (hPQ : ∀ k < 2, ∀ d f, P k d f → Q k d f) : DoubleSlices i s rt Q := by
  obtain ⟨t, fl, h1, h2, f, h3, h4⟩ := h
  exact ⟨t, fl, h1, h2, f, h3, fun k hk => hPQ k hk _ _ (h4 k hk)⟩

end Sys2Proof.Machine
end

