-- ==== Sys2Proof/Laws/Estimate.lean ====
section
/-!
SUPPORT. The estimates meet what the spec states of them: the examples of SingleFloat.lean do, so every constraint
there can be met, and `reciprocalEstimate` and `rootEstimate` always meet it (spec/47_floating_point.md R443, R444).
-/

set_option Elab.async false

namespace Sys2Proof.Machine

/- A single from sign, exponent and significand, and its neighbour. -/

/-- The word of sign, biased exponent and 24-bit significand. -/
def packSingle (neg : Bool) (e M : ℕ) : Word :=
  BitVec.ofBool neg ++ (BitVec.ofNat 8 e ++ BitVec.ofNat 23 (M - 2 ^ 23))

theorem sExp_toNat (w : Word) : sExp w = w.toNat / 2 ^ 23 % 2 ^ 8 := by
  rw [sExp, BitVec.extractLsb'_toNat, Nat.shiftRight_eq_div_pow]

theorem sFrac_toNat (w : Word) : sFrac w = w.toNat % 2 ^ 23 := by
  rw [sFrac, BitVec.extractLsb'_toNat, Nat.shiftRight_zero]

theorem sign_toNat (w : Word) : w.getLsbD 31 = decide (w.toNat / 2 ^ 31 = 1) := by
  have : w.toNat / 2 ^ 31 < 2 := by have := w.isLt; omega
  rw [BitVec.getLsbD, Nat.testBit_eq_decide_div_mod_eq, Nat.mod_eq_of_lt this]

theorem packSingle_toNat (neg : Bool) (e M : ℕ) (he : e ≤ 255) (h2 : M < 2 ^ 24) :
    (packSingle neg e M).toNat = neg.toNat * 2 ^ 31 + (e * 2 ^ 23 + (M - 2 ^ 23)) := by
  have h1 : (M - 2 ^ 23) % 2 ^ 23 = M - 2 ^ 23 := Nat.mod_eq_of_lt (by omega)
  have h3 : e % 2 ^ 8 = e := Nat.mod_eq_of_lt (by omega)
  have h4 : e <<< 23 ||| (M - 2 ^ 23) = e * 2 ^ 23 + (M - 2 ^ 23) := by
    rw [← Nat.shiftLeft_add_eq_or_of_lt (by omega), Nat.shiftLeft_eq]
  rw [packSingle, BitVec.toNat_append, BitVec.toNat_append, BitVec.toNat_ofNat, BitVec.toNat_ofNat, h1, h3,
    BitVec.toNat_ofBool, h4, ← Nat.shiftLeft_add_eq_or_of_lt (by omega), Nat.shiftLeft_eq]

theorem packSingle_fields (neg : Bool) (e M : ℕ) (he : e ≤ 255) (h2 : M < 2 ^ 24) :
    (packSingle neg e M).getLsbD 31 = neg ∧ sExp (packSingle neg e M) = e ∧ sFrac (packSingle neg e M) = M - 2 ^ 23 := by
  rw [sign_toNat, sExp_toNat, sFrac_toNat, packSingle_toNat neg e M he h2]
  cases neg
  · refine ⟨?_, ?_, ?_⟩
    · simp; omega
    · simp; omega
    · simp; omega
  · refine ⟨?_, ?_, ?_⟩
    · simp; omega
    · simp; omega
    · simp; omega

theorem singleValue_packSingle (neg : Bool) (e M : ℕ) (he1 : 1 ≤ e) (he : e ≤ 255) (h1 : 2 ^ 23 ≤ M) (h2 : M < 2 ^ 24) :
    singleValue (packSingle neg e M) = withSign neg (M * 2 ^ ((e : ℤ) - 150)) := by
  obtain ⟨f1, f2, f3⟩ := packSingle_fields neg e M he h2
  rw [singleValue, f1, f2, f3, if_neg (by omega)]
  have : ((M - 2 ^ 23 : ℕ) : ℚ) = M - 2 ^ 23 := by rw [Nat.cast_sub h1]; norm_num
  rw [this]
  congr 2
  ring

/-- A word with a non-zero exponent is made of its fields. -/
theorem eq_packSingle (w : Word) : w = packSingle (w.getLsbD 31) (sExp w) (2 ^ 23 + sFrac w) := by
  have hf := sFrac_lt w
  have he : sExp w ≤ 255 := by rw [sExp_toNat]; omega
  apply BitVec.eq_of_toNat_eq
  rw [packSingle_toNat _ _ _ he (by omega), sign_toNat, sExp_toNat, sFrac_toNat]
  have := w.isLt
  by_cases h : w.toNat / 2 ^ 31 = 1
  · simp only [h, decide_true, Bool.toNat_true]; omega
  · simp only [h, decide_false, Bool.toNat_false]; omega

/-- INC adds one to the significand, or goes to the next binade. -/
theorem inc_packSingle (neg : Bool) (e M : ℕ) (he : e ≤ 254) (h1 : 2 ^ 23 ≤ M) (h2 : M < 2 ^ 24) :
    inc (packSingle neg e M) =
      if M + 1 < 2 ^ 24 then packSingle neg e (M + 1) else packSingle neg (e + 1) (2 ^ 23) := by
  apply BitVec.eq_of_toNat_eq
  have hs : neg.toNat ≤ 1 := by cases neg <;> simp
  rw [inc, BitVec.toNat_add, packSingle_toNat _ _ _ (by omega) h2]
  split_ifs with h
  · rw [packSingle_toNat _ _ _ (by omega) h, show (1#32).toNat = 1 from rfl]
    omega
  · rw [packSingle_toNat _ _ _ (by omega) (by norm_num), show (1#32).toNat = 1 from rfl]
    omega

/- `sround` over rational numbers. -/

theorem withSign_abs (neg : Bool) (x : ℚ) : |withSign neg x| = |x| := by
  cases neg <;> simp [withSign]

/-- Between Smin and Smax `sround` delivers the significand below the value. -/
theorem sround_between (n : ℤ) (k : ℕ) (r : ℚ) (hr : (n : ℚ) / 2 ^ k = r) (hmin : singleMin ≤ |r|) (hmax : |r| ≤ singleMax) :
    ∃ e M : ℕ, 1 ≤ e ∧ e ≤ 255 ∧ 2 ^ 23 ≤ M ∧ M < 2 ^ 24 ∧ (sround n k).1 = packSingle (decide (r < 0)) e M ∧
      (M : ℚ) * 2 ^ ((e : ℤ) - 150) ≤ |r| ∧ |r| < (M + 1) * 2 ^ ((e : ℤ) - 150) := by
  have h := sround_spec n k
  rw [hr] at h
  unfold SingleRounds at h
  have h0 : r ≠ 0 := by
    rintro rfl
    norm_num [singleMin] at hmin
  rw [if_neg h0, if_neg (not_lt.mpr hmax), if_neg (not_lt.mpr hmin)] at h
  obtain ⟨e, M, h1, h2, h3, h4, h5, h6, -⟩ := h
  have hp : (0 : ℚ) < 2 ^ ((e : ℤ) - 150) := by positivity
  have e1 : (2 : ℚ) ^ ((e : ℤ) - 127) = 2 ^ 23 * 2 ^ ((e : ℤ) - 150) := by
    rw [← zpow_natCast, ← zpow_add₀ (by norm_num)]; congr 1; push_cast; ring
  have e2 : (2 : ℚ) ^ ((e : ℤ) - 126) = 2 ^ 24 * 2 ^ ((e : ℤ) - 150) := by
    rw [← zpow_natCast, ← zpow_add₀ (by norm_num)]; congr 1; push_cast; ring
  have f := Int.floor_eq_iff.mp h5.symm
  rw [le_div_iff₀ hp, div_lt_iff₀ hp, Int.cast_natCast] at f
  refine ⟨e, M, h1, h2, ?_, ?_, h6, f.1, f.2⟩
  · have : ((2 ^ 23 : ℤ) : ℤ) ≤ M := by
      rw [h5, Int.le_floor, le_div_iff₀ hp]
      rw [e1] at h3
      exact_mod_cast h3
    exact_mod_cast this
  · have : (M : ℤ) < (2 ^ 24 : ℤ) := by
      rw [h5, Int.floor_lt, div_lt_iff₀ hp]
      rw [e2] at h4
      exact_mod_cast h4
    exact_mod_cast this

/-- Two significands with the same value of a binade: the lower one of an interval is the value itself. -/
theorem significand_unique {e f : ℤ} {M N : ℕ} (hM1 : 2 ^ 23 ≤ M) (hM2 : M < 2 ^ 24) (hN1 : 2 ^ 23 ≤ N) (hN2 : N < 2 ^ 24)
    (h1 : (M : ℚ) * 2 ^ e ≤ N * 2 ^ f) (h2 : (N : ℚ) * 2 ^ f < (M + 1) * 2 ^ e) : e = f ∧ M = N := by
  have pe : (0 : ℚ) < 2 ^ e := by positivity
  have pf : (0 : ℚ) < 2 ^ f := by positivity
  have qM1 : (2 ^ 23 : ℚ) ≤ M := by exact_mod_cast hM1
  have qM2 : (M : ℚ) + 1 ≤ 2 ^ 24 := by exact_mod_cast hM2
  have qN1 : (2 ^ 23 : ℚ) ≤ N := by exact_mod_cast hN1
  have qN2 : (N : ℚ) < 2 ^ 24 := by exact_mod_cast hN2
  have he : e = f := by
    rcases lt_trichotomy e f with h | h | h
    · have : (2 : ℚ) ^ (e + 1) ≤ 2 ^ f := zpow_le_zpow_right₀ (by norm_num) (by omega)
      rw [zpow_add_one₀ (by norm_num)] at this
      nlinarith
    · exact h
    · have : (2 : ℚ) ^ (f + 1) ≤ 2 ^ e := zpow_le_zpow_right₀ (by norm_num) (by omega)
      rw [zpow_add_one₀ (by norm_num)] at this
      nlinarith
  subst he
  refine ⟨rfl, ?_⟩
  have a := le_of_mul_le_mul_right h1 pe
  have b := lt_of_mul_lt_mul_right h2 pe.le
  have a' : M ≤ N := by exact_mod_cast a
  have b' : N < M + 1 := by exact_mod_cast b
  omega

/-- `sround` is exact on a value of at most 24 significant bits. -/
theorem sround_exact (n : ℤ) (k : ℕ) (r : ℚ) (hr : (n : ℚ) / 2 ^ k = r) (D : ℕ) (z : ℤ) (hD : 0 < D) (hD2 : D < 2 ^ 24)
    (hv : |r| = D * 2 ^ z) (hmin : singleMin ≤ |r|) (hmax : |r| ≤ singleMax) : singleValue (sround n k).1 = r := by
  obtain ⟨e, M, h1, h2, h3, h4, h5, h6, h7⟩ := sround_between n k r hr hmin hmax
  have hj : Nat.log2 D ≤ 23 := by
    have := (Nat.log2_lt hD.ne').mpr hD2
    omega
  have hlo := Nat.log2_self_le hD.ne'
  have hhi := Nat.lt_log2_self (n := D)
  have hN1 : 2 ^ 23 ≤ D * 2 ^ (23 - Nat.log2 D) := by
    calc 2 ^ 23 = 2 ^ Nat.log2 D * 2 ^ (23 - Nat.log2 D) := by rw [← pow_add]; congr 1; omega
      _ ≤ _ := Nat.mul_le_mul_right _ hlo
  have hN2 : D * 2 ^ (23 - Nat.log2 D) < 2 ^ 24 := by
    calc _ < 2 ^ (Nat.log2 D + 1) * 2 ^ (23 - Nat.log2 D) := Nat.mul_lt_mul_of_pos_right hhi (by positivity)
      _ = 2 ^ 24 := by rw [← pow_add]; congr 1; omega
  have hv' : |r| = ((D * 2 ^ (23 - Nat.log2 D) : ℕ) : ℚ) * 2 ^ (z - (23 - Nat.log2 D : ℕ)) := by
    rw [hv, zpow_sub₀ (by norm_num), zpow_natCast]
    push_cast
    field_simp
  rw [hv'] at h6 h7
  obtain ⟨e1, e2⟩ := significand_unique h3 h4 hN1 hN2 h6 h7
  rw [h5, singleValue_packSingle _ _ _ h1 h2 h3 h4, e1, e2, ← hv']
  by_cases h : r < 0
  · simp [withSign, h, abs_of_neg h]
  · simp [withSign, h, abs_of_nonneg (not_lt.mp h)]

/-- The next single of the same sign: one unit in the last place further from zero. -/
theorem inc_value (neg : Bool) (e M : ℕ) (he : e ≤ 254) (h1 : 2 ^ 23 ≤ M) (h2 : M < 2 ^ 24) :
    ∃ e' M' : ℕ, e ≤ e' ∧ e' ≤ e + 1 ∧ 2 ^ 23 ≤ M' ∧ M' < 2 ^ 24 ∧ inc (packSingle neg e M) = packSingle neg e' M' ∧
      (M' : ℚ) * 2 ^ ((e' : ℤ) - 150) = (M + 1) * 2 ^ ((e : ℤ) - 150) := by
  rw [inc_packSingle neg e M he h1 h2]
  split_ifs with h
  · exact ⟨e, M + 1, le_refl _, by omega, by omega, h, rfl, by push_cast; ring⟩
  · refine ⟨e + 1, 2 ^ 23, by omega, le_refl _, le_refl _, by norm_num, rfl, ?_⟩
    have hM : M = 2 ^ 24 - 1 := by omega
    have : (((e + 1 : ℕ) : ℤ) - 150) = ((e : ℤ) - 150) + 1 := by push_cast; ring
    rw [this, zpow_add_one₀ (by norm_num), hM]
    push_cast
    ring

/- Operations of the sequences over rational numbers. -/

theorem singleValue_one : singleValue singleOne = 1 := by
  rw [show singleOne = packSingle false 127 (2 ^ 23) by decide, singleValue_packSingle _ _ _ (by norm_num) (by norm_num)
    (by norm_num) (by norm_num)]
  norm_num [withSign]

theorem singleValue_half : singleValue singleHalf = 1 / 2 := by
  rw [show singleHalf = packSingle false 126 (2 ^ 23) by decide, singleValue_packSingle _ _ _ (by norm_num) (by norm_num)
    (by norm_num) (by norm_num)]
  norm_num [withSign]

theorem scale_double (A T : ℚ) (k : ℕ) (h : T = 2 ^ k) : A / 2 ^ (2 * k) = A / (T * T) := by
  rw [h, two_mul, pow_add]

theorem exact_mul (a b c : Word) : (((singleExact .mul a b c).1 : ℤ) : ℚ) / 2 ^ (singleExact .mul a b c).2 =
    singleValue a * singleValue b := by
  obtain ⟨T, hT⟩ : ∃ T : ℚ, T = 2 ^ 149 := ⟨_, rfl⟩
  have h0 : T ≠ 0 := hT ▸ by positivity
  rw [← sx_eq, ← sx_eq, show (singleExact .mul a b c).2 = 2 * 149 from rfl, scale_double _ T 149 hT, ← hT]
  simp only [singleExact]
  push_cast
  field_simp

theorem exact_madd (a b c : Word) : (((singleExact .madd a b c).1 : ℤ) : ℚ) / 2 ^ (singleExact .madd a b c).2 =
    singleValue a * singleValue b + singleValue c := by
  obtain ⟨T, hT⟩ : ∃ T : ℚ, T = 2 ^ 149 := ⟨_, rfl⟩
  have h0 : T ≠ 0 := hT ▸ by positivity
  rw [← sx_eq, ← sx_eq, ← sx_eq, show (singleExact .madd a b c).2 = 2 * 149 from rfl, scale_double _ T 149 hT, ← hT]
  simp only [singleExact]
  rw [Int.cast_add, Int.cast_mul, Int.cast_mul, Int.cast_pow, Int.cast_ofNat, ← hT]
  field_simp

theorem exact_nmsub (a b c : Word) : (((singleExact .nmsub a b c).1 : ℤ) : ℚ) / 2 ^ (singleExact .nmsub a b c).2 =
    singleValue c - singleValue a * singleValue b := by
  obtain ⟨T, hT⟩ : ∃ T : ℚ, T = 2 ^ 149 := ⟨_, rfl⟩
  have h0 : T ≠ 0 := hT ▸ by positivity
  rw [← sx_eq, ← sx_eq, ← sx_eq, show (singleExact .nmsub a b c).2 = 2 * 149 from rfl, scale_double _ T 149 hT, ← hT]
  simp only [singleExact]
  rw [Int.cast_sub, Int.cast_mul, Int.cast_mul, Int.cast_pow, Int.cast_ofNat, ← hT]
  field_simp

/-- An estimate with base `B` and step 0 is interpolated to its own value. -/
theorem interp_base (a : Word) (neg : Bool) (E B : ℕ) (hE1 : 1 ≤ E) (hE : E ≤ 254) (hB1 : 2 ^ 13 ≤ B) (hB : B < 2 ^ 14) :
    singleValue (singleReference .interp a (packSingle neg E (B * 2 ^ 10)) 0#32).1 =
      withSign neg (B * 2 ^ ((E : ℤ) - 140)) := by
  obtain ⟨f1, f2, f3⟩ := packSingle_fields neg E (B * 2 ^ 10) (by omega) (by omega)
  have ht := packSingle_toNat neg E (B * 2 ^ 10) (by omega) (by omega)
  have hb1 : (packSingle neg E (B * 2 ^ 10)).toNat / 2 ^ 10 % 2 ^ 13 = B - 2 ^ 13 := by
    rw [ht]; cases neg <;> simp <;> omega
  have hb0 : (packSingle neg E (B * 2 ^ 10)).toNat % 2 ^ 10 = 0 := by
    rw [ht]; cases neg <;> simp <;> omega
  have hr := interpolate_eq a (packSingle neg E (B * 2 ^ 10))
  rw [hb1, hb0, f1, f2] at hr
  have hv : (1 + ((B - 2 ^ 13 : ℕ) : ℚ) / 2 ^ 13 - ((0 : ℕ) : ℚ) / 2 ^ 13 * (((a.toNat % 2 ^ 19 : ℕ) : ℚ) / 2 ^ 19)) *
      2 ^ ((E : ℤ) - 127) = B * 2 ^ ((E : ℤ) - 140) := by
    have : (E : ℤ) - 127 = ((E : ℤ) - 140) + (13 : ℕ) := by push_cast; ring
    rw [this, zpow_add₀ (by norm_num), zpow_natCast, Nat.cast_sub hB1]
    push_cast
    ring
  rw [hv] at hr
  have q1 : (2 ^ 13 : ℚ) ≤ B := by exact_mod_cast hB1
  have q2 : (B : ℚ) ≤ 2 ^ 14 := by exact_mod_cast hB.le
  have ha : |withSign neg ((B : ℚ) * 2 ^ ((E : ℤ) - 140))| = (B : ℚ) * 2 ^ ((E : ℤ) - 140) := by
    rw [withSign_abs, abs_of_nonneg (by positivity)]
  have p1 : (2 : ℚ) ^ (-139 : ℤ) ≤ 2 ^ ((E : ℤ) - 140) := zpow_le_zpow_right₀ (by norm_num) (by omega)
  have p2 : (2 : ℚ) ^ ((E : ℤ) - 140) ≤ 2 ^ (114 : ℤ) := zpow_le_zpow_right₀ (by norm_num) (by omega)
  refine sround_exact _ _ _ hr B ((E : ℤ) - 140) (by omega) (by omega) ha ?_ ?_
  · rw [ha, singleMin]
    calc (1 : ℚ) / 2 ^ 126 = (2 : ℚ) ^ 13 * 2 ^ (-139 : ℤ) := by norm_num
      _ ≤ (B : ℚ) * 2 ^ ((E : ℤ) - 140) := mul_le_mul q1 p1 (by positivity) (by positivity)
  · rw [ha, singleMax]
    calc (B : ℚ) * 2 ^ ((E : ℤ) - 140) ≤ (2 : ℚ) ^ 14 * 2 ^ (114 : ℤ) := mul_le_mul q2 p2 (by positivity) (by positivity)
      _ ≤ 2 ^ 128 * (2 - 1 / 2 ^ 23) := by norm_num

/-- The word of a base `B` and step 0. -/
theorem base_word (neg : Bool) (E B : ℕ) (hB : B < 2 ^ 14) :
    BitVec.ofBool neg ++ (BitVec.ofNat 8 E ++ (BitVec.ofNat 13 (B - 2 ^ 13) ++ 0#10)) =
      packSingle neg E (B * 2 ^ 10) := by
  have h : BitVec.ofNat 13 (B - 2 ^ 13) ++ 0#10 = BitVec.ofNat 23 (B * 2 ^ 10 - 2 ^ 23) := by
    apply BitVec.eq_of_toNat_eq
    rw [BitVec.toNat_append, BitVec.toNat_ofNat, BitVec.toNat_ofNat, BitVec.toNat_ofNat, Nat.zero_mod, Nat.or_zero,
      Nat.shiftLeft_eq]
    omega
  rw [packSingle, ← h]

/- The reciprocal. -/

theorem isReciprocal_iff (x y : Word) :
    isReciprocal x y = true ↔ singleValue x * singleValue y < 1 ∧ 1 ≤ singleValue x * singleValue (inc y) := by
  have key (a b : Word) : singleValue a * singleValue b = ((sx a * sx b : ℤ) : ℚ) / 2 ^ 298 := by
    rw [← exact_mul a b 0#32]; rfl
  have hp : (0 : ℚ) < 2 ^ 298 := by positivity
  rw [isReciprocal, Bool.and_eq_true, decide_eq_true_eq, decide_eq_true_eq, key, key, div_lt_one hp, one_le_div hp,
    ← Int.cast_lt (R := ℚ), ← Int.cast_le (R := ℚ), Int.cast_pow, Int.cast_ofNat]

/-- A value that is at most `1/x` and comes within one unit in the last place of it. -/
theorem reciprocal_near (x : Word) (neg : Bool) (e M : ℕ) (he1 : 1 ≤ e) (he : e ≤ 253) (h1 : 2 ^ 23 ≤ M) (h2 : M < 2 ^ 24)
    (hx : singleValue x = withSign neg |singleValue x|) (hlo : |singleValue x| * (M * 2 ^ ((e : ℤ) - 150)) < 1)
    (hhi : 1 ≤ |singleValue x| * ((M + 2) * 2 ^ ((e : ℤ) - 150))) :
    (isReciprocal x (packSingle neg e M) || isReciprocal x (inc (packSingle neg e M))) = true := by
  obtain ⟨e', M', a1, a2, a3, a4, a5, a6⟩ := inc_value neg e M (by omega) h1 h2
  obtain ⟨e'', M'', b1, b2, b3, b4, b5, b6⟩ := inc_value neg e' M' (by omega) a3 a4
  have prod (f N : ℕ) (hf1 : 1 ≤ f) (hf : f ≤ 255) (hN1 : 2 ^ 23 ≤ N) (hN2 : N < 2 ^ 24) :
      singleValue x * singleValue (packSingle neg f N) = |singleValue x| * (N * 2 ^ ((f : ℤ) - 150)) := by
    rw [singleValue_packSingle _ _ _ hf1 hf hN1 hN2, hx, withSign_abs, abs_abs]
    cases neg <;> simp [withSign]
  have h0 : 0 ≤ |singleValue x| := abs_nonneg _
  have hp : (0 : ℚ) < 2 ^ ((e : ℤ) - 150) := by positivity
  have hpp : (2 : ℚ) ^ ((e : ℤ) - 150) ≤ 2 ^ ((e' : ℤ) - 150) := zpow_le_zpow_right₀ (by norm_num) (by omega)
  rw [Bool.or_eq_true, isReciprocal_iff, isReciprocal_iff, a5, b5, prod e M he1 (by omega) h1 h2,
    prod e' M' (by omega) (by omega) a3 a4, prod e'' M'' (by omega) (by omega) b3 b4, a6]
  by_cases h : 1 ≤ |singleValue x| * ((M + 1) * 2 ^ ((e : ℤ) - 150))
  · exact .inl ⟨hlo, h⟩
  · refine .inr ⟨not_le.mp h, hhi.trans (mul_le_mul_of_nonneg_left ?_ h0)⟩
    rw [b6, add_mul (M' : ℚ), a6]
    linarith

theorem mantissa_sign (w : Word) (h : sExp w ≠ 0) :
    singleValue w = withSign (w.getLsbD 31) ((2 ^ 23 + sFrac w : ℕ) * 2 ^ ((sExp w : ℤ) - 150)) := by
  rw [singleValue, if_neg h]
  push_cast
  rfl

/-- The example of `frest` meets what the spec states. -/
theorem reciprocalOk_example (x : Word) : reciprocalOk x (reciprocalExample x) = true := by
  unfold reciprocalOk reciprocalExample
  have hE : sExp x ≤ 255 := by rw [sExp_toNat]; omega
  have hf := sFrac_lt x
  by_cases h0 : sExp x = 0
  · have hy : (singleReference .interp x 0x7FFFFC00#32 0#32).1 = 0x7FFFFC00#32 := by
      have : interpolate x 0x7FFFFC00#32 = interpolate 0#32 0x7FFFFC00#32 := by
        simp [interpolate]
      simp only [singleReference, singleExact, this]
      decide +kernel
    have hx : sx x = 0 := by simp [sx, h0]
    have ht : (singleReference .nmsub x 0x7FFFFC00#32 singleOne).1 = singleOne := by
      simp only [singleReference, singleExact, hx, zero_mul]
      decide +kernel
    have hz : (singleReference .madd singleOne 0x7FFFFC00#32 0x7FFFFC00#32).1 = 0x7FFFFFFF#32 := by decide +kernel
    simp only [h0, if_true, reciprocalSequence, hy, ht, hz, beq_self_eq_true]
  by_cases h1 : 253 ≤ sExp x
  · have hy : (singleReference .interp x 0#32 0#32).1 = 0#32 := by
      have : interpolate x 0#32 = interpolate 0#32 0#32 := by simp [interpolate]
      simp only [singleReference, singleExact, this]
      decide +kernel
    have ht : (singleReference .nmsub x 0#32 singleOne).1 = singleOne := by
      have : sx 0#32 = 0 := by decide
      simp only [singleReference, singleExact, this, mul_zero]
      decide +kernel
    have hz : (singleReference .madd singleOne 0#32 0#32).1 = 0#32 := by decide +kernel
    simp only [h0, h1, if_true, if_false, reciprocalSequence, hy, ht, hz, beq_self_eq_true]
  simp only [h0, h1, if_false]
  obtain ⟨m, hm⟩ : ∃ m, 2 ^ 23 + sFrac x = m := ⟨_, rfl⟩
  obtain ⟨e, he⟩ : ∃ e, sExp x = e := ⟨_, rfl⟩
  obtain ⟨B, hB⟩ : ∃ B, (2 ^ 37 - 1) / m = B := ⟨_, rfl⟩
  have hv := mantissa_sign x h0
  rw [hm, he] at hv
  rw [hm, he, hB]
  generalize x.getLsbD 31 = neg at hv ⊢
  rw [he] at h0 h1
  -- the base: `B * m < 2^37 <= (B + 1) * m`
  have hm0 : 0 < m := by omega
  have g1 : B * m < 2 ^ 37 := by
    have := Nat.div_mul_le_self (2 ^ 37 - 1) m
    rw [hB] at this
    omega
  have g2 : 2 ^ 37 ≤ (B + 1) * m := by
    have := Nat.lt_mul_div_succ (2 ^ 37 - 1) hm0
    rw [hB] at this
    rw [Nat.mul_comm]
    omega
  have g3 : 2 ^ 13 ≤ B := by
    by_contra h
    have : (B + 1) * m ≤ 2 ^ 13 * m := Nat.mul_le_mul_right _ (by omega)
    omega
  have g4 : B < 2 ^ 14 := by
    by_contra h
    have : 2 ^ 14 * m ≤ B * m := Nat.mul_le_mul_right _ (by omega)
    omega
  rw [base_word neg _ B g4]
  -- the values of the sequence
  obtain ⟨Y, hY⟩ : ∃ Y : ℚ, Y = B * 2 ^ (((253 - e : ℕ) : ℤ) - 140) := ⟨_, rfl⟩
  obtain ⟨A, hA⟩ : ∃ A : ℚ, A = m * 2 ^ ((e : ℤ) - 150) := ⟨_, rfl⟩
  rw [← hA] at hv
  have hA0 : 0 < A := by rw [hA]; have : (0 : ℚ) < m := by exact_mod_cast hm0
                         positivity
  have hY0 : 0 < Y := by rw [hY]; have : (0 : ℚ) < B := by exact_mod_cast (by omega : 0 < B)
                         positivity
  have hAY : A * Y = 1 - ((2 ^ 37 - B * m : ℕ) : ℚ) / 2 ^ 37 := by
    have : (2 : ℚ) ^ ((e : ℤ) - 150) * 2 ^ (((253 - e : ℕ) : ℤ) - 140) = 1 / 2 ^ 37 := by
      rw [← zpow_add₀ (by norm_num), show (e : ℤ) - 150 + (((253 - e : ℕ) : ℤ) - 140) = -37 by omega]
      norm_num
    rw [hA, hY, mul_mul_mul_comm, this, Nat.cast_sub g1.le]
    push_cast
    ring
  obtain ⟨D, hD⟩ : ∃ D, 2 ^ 37 - B * m = D := ⟨_, rfl⟩
  rw [hD] at hAY
  have hD1 : 0 < D := by omega
  have hD2 : D < 2 ^ 24 := by
    have : (B + 1) * m = B * m + m := by ring
    omega
  obtain ⟨δ, hδ⟩ : ∃ δ : ℚ, δ = (D : ℚ) / 2 ^ 37 := ⟨_, rfl⟩
  rw [← hδ] at hAY
  have hδ1 : 1 / 2 ^ 37 ≤ δ := by
    rw [hδ]; exact div_le_div_of_nonneg_right (by exact_mod_cast hD1) (by positivity)
  have hδ2 : δ < 1 / 2 ^ 13 := by
    rw [hδ, div_lt_div_iff₀ (by positivity) (by positivity)]
    have : (D : ℚ) < 2 ^ 24 := by exact_mod_cast hD2
    linarith
  have hAlo : 1 / 2 ^ 126 ≤ A := by
    have p : (2 : ℚ) ^ (-149 : ℤ) ≤ 2 ^ ((e : ℤ) - 150) := zpow_le_zpow_right₀ (by norm_num) (by omega)
    have q : (2 ^ 23 : ℚ) ≤ m := by exact_mod_cast (by omega : 2 ^ 23 ≤ m)
    calc (1 : ℚ) / 2 ^ 126 = (2 : ℚ) ^ 23 * 2 ^ (-149 : ℤ) := by norm_num
      _ ≤ A := hA ▸ mul_le_mul q p (by positivity) (by positivity)
  have hAhi : A ≤ 2 ^ 126 * (1 - 1 / 2 ^ 24) := by
    have p : (2 : ℚ) ^ ((e : ℤ) - 150) ≤ 2 ^ (102 : ℤ) := zpow_le_zpow_right₀ (by norm_num) (by omega)
    have q : (m : ℚ) ≤ 2 ^ 24 - 1 := by
      have : (m : ℚ) + 1 ≤ 2 ^ 24 := by exact_mod_cast (by omega : m + 1 ≤ 2 ^ 24)
      linarith
    calc A ≤ ((2 : ℚ) ^ 24 - 1) * 2 ^ (102 : ℤ) := hA ▸ mul_le_mul q p (by positivity) (by norm_num)
      _ = 2 ^ 126 * (1 - 1 / 2 ^ 24) := by norm_num
  have hvabs : |singleValue x| = A := by rw [hv, withSign_abs, abs_of_pos hA0]
  rw [reciprocalSequence]
  have v1 := interp_base x neg (253 - e) B (by omega) (by omega) g3 g4
  rw [← hY] at v1
  obtain ⟨y1, hy1⟩ : ∃ y1, (singleReference .interp x (packSingle neg (253 - e) (B * 2 ^ 10)) 0#32).1 = y1 := ⟨_, rfl⟩
  rw [hy1] at v1 ⊢
  have hxy : singleValue x * singleValue y1 = 1 - δ := by
    rw [← hAY, hv, v1]
    cases neg <;> simp [withSign]
  have v2 : singleValue (singleReference .nmsub x y1 singleOne).1 = δ := by
    have e1 := exact_nmsub x y1 singleOne
    rw [singleValue_one, hxy, sub_sub_cancel] at e1
    have e2 : |δ| = δ := abs_of_pos (by linarith [show (0 : ℚ) < 1 / 2 ^ 37 by norm_num])
    refine sround_exact _ _ _ e1 D (-37) hD1 hD2 ?_ ?_ ?_
    · rw [e2, hδ]; norm_num; ring
    · rw [e2, singleMin]; refine le_trans ?_ hδ1; norm_num
    · rw [e2, singleMax]; refine hδ2.le.trans ?_; norm_num
  obtain ⟨t1, ht1⟩ : ∃ t1, (singleReference .nmsub x y1 singleOne).1 = t1 := ⟨_, rfl⟩
  rw [ht1] at v2
  simp only [ht1]
  have e3 := exact_madd t1 y1 y1
  have e4 : singleValue t1 * singleValue y1 + singleValue y1 = withSign neg (Y * (1 + δ)) := by
    rw [v2, v1]
    cases neg <;> simp [withSign] <;> ring
  rw [e4] at e3
  obtain ⟨R, hR⟩ : ∃ R : ℚ, R = Y * (1 + δ) := ⟨_, rfl⟩
  have hδ0 : 0 < δ := lt_of_lt_of_le (by norm_num) hδ1
  have hR0 : 0 < R := by rw [hR]; positivity
  have hAR : A * R = 1 - δ ^ 2 := by rw [hR, ← mul_assoc, hAY]; ring
  have hδsq : δ ^ 2 < 1 / 2 ^ 26 := by
    have : δ ^ 2 < (1 / 2 ^ 13) ^ 2 := pow_lt_pow_left₀ hδ2 hδ0.le (by norm_num)
    refine this.trans_eq ?_
    norm_num
  rw [← hR] at e3
  have habs : |withSign neg R| = R := by rw [withSign_abs, abs_of_pos hR0]
  have hRlo : singleMin ≤ R := by
    rw [singleMin]
    by_contra h
    have h := not_le.mp h
    have : A * R ≤ 2 ^ 126 * (1 - 1 / 2 ^ 24) * (1 / 2 ^ 126) :=
      mul_le_mul hAhi h.le hR0.le (by norm_num)
    rw [hAR] at this
    norm_num at this hδsq
    linarith
  have hRhi : R < 2 ^ 126 := by
    by_contra h
    have h := not_lt.mp h
    have : 1 / 2 ^ 126 * 2 ^ 126 ≤ A * R := mul_le_mul hAlo h (by norm_num) hA0.le
    rw [hAR] at this
    norm_num at this
    nlinarith
  have hneg : decide (withSign neg R < 0) = neg := by
    cases neg <;> simp [withSign, hR0, hR0.le]
  obtain ⟨e', M, b1, b2, b3, b4, b5, b6, b7⟩ := sround_between _ _ _ e3 (by rw [habs]; exact hRlo)
    (by rw [habs, singleMax]; refine hRhi.le.trans ?_; norm_num)
  rw [hneg] at b5
  rw [habs] at b6 b7
  rw [show (singleReference .madd t1 y1 y1).1 = packSingle neg e' M from b5]
  have hp : (0 : ℚ) < 2 ^ ((e' : ℤ) - 150) := by positivity
  have qM1 : (2 ^ 23 : ℚ) ≤ M := by exact_mod_cast b3
  have qM2 : (M : ℚ) + 1 ≤ 2 ^ 24 := by exact_mod_cast b4
  have he' : e' ≤ 253 := by
    by_contra h
    have p : (2 : ℚ) ^ (104 : ℤ) ≤ 2 ^ ((e' : ℤ) - 150) := zpow_le_zpow_right₀ (by norm_num) (by omega)
    have : (2 : ℚ) ^ 23 * 2 ^ (104 : ℤ) ≤ M * 2 ^ ((e' : ℤ) - 150) := mul_le_mul qM1 p (by positivity) (by positivity)
    norm_num at this hRhi
    linarith
  refine reciprocal_near x neg e' M b1 he' b3 b4 (by rw [hvabs]; exact hv) ?_ ?_
  · rw [hvabs]
    have : A * (M * 2 ^ ((e' : ℤ) - 150)) ≤ A * R := mul_le_mul_of_nonneg_left b6 hA0.le
    rw [hAR] at this
    have : 0 < δ ^ 2 := by positivity
    linarith
  · rw [hvabs]
    obtain ⟨U, hU⟩ : ∃ U : ℚ, U = 2 ^ ((e' : ℤ) - 150) := ⟨_, rfl⟩
    rw [← hU] at b6 b7 hp ⊢
    have c1 : A * R ≤ A * ((M + 1) * U) := mul_le_mul_of_nonneg_left b7.le hA0.le
    have c2 : (M + 1) * U ≤ 2 ^ 24 * U := mul_le_mul_of_nonneg_right qM2 hp.le
    have c3 : A * R ≤ A * (2 ^ 24 * U) := c1.trans (mul_le_mul_of_nonneg_left c2 hA0.le)
    have c4 : A * ((M + 2) * U) = A * ((M + 1) * U) + A * U := by ring
    have c5 : A * (2 ^ 24 * U) = 2 ^ 24 * (A * U) := by ring
    rw [c4]
    rw [c5] at c3
    rw [hAR] at c1 c3
    norm_num at c3 hδsq
    linarith

/-- FREST_TABLE meets what the spec states of it. -/
theorem reciprocalOk_estimate (x : Word) : reciprocalOk x (reciprocalEstimate x) = true := by
  unfold reciprocalEstimate
  split
  · assumption
  · exact reciprocalOk_example x

/- The reciprocal square root. -/

theorem isRoot_iff (x y : Word) :
    isRoot x y = true ↔ y.getLsbD 31 = false ∧ singleValue x * singleValue y ^ 2 < 1 ∧
      1 ≤ singleValue x * singleValue (inc y) ^ 2 := by
  have key (a b : Word) : singleValue a * singleValue b ^ 2 = ((sx a * sx b ^ 2 : ℤ) : ℚ) / 2 ^ 447 := by
    obtain ⟨T, hT⟩ : ∃ T : ℚ, T = 2 ^ 149 := ⟨_, rfl⟩
    have h0 : T ≠ 0 := hT ▸ by positivity
    have h3 : (2 : ℚ) ^ 447 = T ^ 3 := by rw [hT, ← pow_mul]
    rw [← sx_eq, ← sx_eq, h3, ← hT, Int.cast_mul, Int.cast_pow]
    field_simp
  have hp : (0 : ℚ) < 2 ^ 447 := by positivity
  rw [isRoot, Bool.and_eq_true, Bool.not_eq_true', Bool.and_eq_true, decide_eq_true_eq, decide_eq_true_eq, key, key, div_lt_one hp, one_le_div hp,
    ← Int.cast_lt (R := ℚ), ← Int.cast_le (R := ℚ), Int.cast_pow, Int.cast_ofNat]

/-- The previous single of a positive one. -/
theorem dec_value (e M : ℕ) (he1 : 2 ≤ e) (he : e ≤ 254) (h1 : 2 ^ 23 ≤ M) (h2 : M < 2 ^ 24) :
    ∃ e' M' : ℕ, 1 ≤ e' ∧ e' ≤ 254 ∧ 2 ^ 23 ≤ M' ∧ M' < 2 ^ 24 ∧ packSingle false e M - 1#32 = packSingle false e' M' ∧
      inc (packSingle false e' M') = packSingle false e M ∧
      (M' : ℚ) * 2 ^ ((e' : ℤ) - 150) ≤ (M * 2 ^ ((e : ℤ) - 150)) * (1 - 1 / 2 ^ 24) := by
  have hp : (0 : ℚ) < 2 ^ ((e : ℤ) - 150) := by positivity
  have back (a b : Word) (h : inc a = b) : b - 1#32 = a := by rw [← h, inc, BitVec.add_sub_cancel]
  by_cases h : 2 ^ 23 < M
  · have hi : inc (packSingle false e (M - 1)) = packSingle false e M := by
      rw [inc_packSingle false e (M - 1) he (by omega) (by omega), if_pos (by omega), Nat.sub_add_cancel (by omega)]
    refine ⟨e, M - 1, by omega, he, by omega, by omega, back _ _ hi, hi, ?_⟩
    rw [Nat.cast_sub (by omega), Nat.cast_one]
    have : (M : ℚ) ≤ 2 ^ 24 := by exact_mod_cast h2.le
    have : (M : ℚ) - 1 ≤ M * (1 - 1 / 2 ^ 24) := by linarith
    calc ((M : ℚ) - 1) * 2 ^ ((e : ℤ) - 150) ≤ M * (1 - 1 / 2 ^ 24) * 2 ^ ((e : ℤ) - 150) :=
          mul_le_mul_of_nonneg_right this hp.le
      _ = _ := by ring
  · have hM : M = 2 ^ 23 := by omega
    have hi : inc (packSingle false (e - 1) (2 ^ 24 - 1)) = packSingle false e M := by
      rw [inc_packSingle false (e - 1) (2 ^ 24 - 1) (by omega) (by norm_num) (by norm_num), if_neg (by norm_num),
        Nat.sub_add_cancel (by omega), hM]
    refine ⟨e - 1, 2 ^ 24 - 1, by omega, by omega, by norm_num, by norm_num, back _ _ hi, hi, ?_⟩
    have : (((e - 1 : ℕ) : ℤ) - 150) = ((e : ℤ) - 150) - 1 := by omega
    rw [this, zpow_sub_one₀ (by norm_num), hM]
    push_cast
    linarith

/-- A value within one unit in the last place of `1/sqrt(x)`. -/
theorem root_near (x : Word) (e M : ℕ) (he1 : 2 ≤ e) (he : e ≤ 252) (h1 : 2 ^ 23 ≤ M) (h2 : M < 2 ^ 24)
    (hx : 0 ≤ singleValue x) (hlo : singleValue x * (M * 2 ^ ((e : ℤ) - 150) * (1 - 1 / 2 ^ 24)) ^ 2 < 1)
    (hhi : 1 ≤ singleValue x * ((M + 2) * 2 ^ ((e : ℤ) - 150)) ^ 2) :
    (isRoot x (packSingle false e M - 1#32) || isRoot x (packSingle false e M) ||
      isRoot x (inc (packSingle false e M))) = true := by
  obtain ⟨d, N, c1, c2, c3, c4, c5, c6, c7⟩ := dec_value e M he1 (by omega) h1 h2
  obtain ⟨e', M', a1, a2, a3, a4, a5, a6⟩ := inc_value false e M (by omega) h1 h2
  obtain ⟨e'', M'', b1, b2, b3, b4, b5, b6⟩ := inc_value false e' M' (by omega) a3 a4
  have val (f N : ℕ) (hf1 : 1 ≤ f) (hf : f ≤ 255) (hN1 : 2 ^ 23 ≤ N) (hN2 : N < 2 ^ 24) :
      singleValue (packSingle false f N) = N * 2 ^ ((f : ℤ) - 150) := singleValue_packSingle _ _ _ hf1 hf hN1 hN2
  have sgn (f N : ℕ) (hf : f ≤ 255) (hN : N < 2 ^ 24) : (packSingle false f N).getLsbD 31 = false :=
    (packSingle_fields false f N hf hN).1
  have hp : (0 : ℚ) < 2 ^ ((e : ℤ) - 150) := by positivity
  have hpp : (2 : ℚ) ^ ((e : ℤ) - 150) ≤ 2 ^ ((e' : ℤ) - 150) := zpow_le_zpow_right₀ (by norm_num) (by omega)
  rw [Bool.or_eq_true, Bool.or_eq_true, isRoot_iff, isRoot_iff, isRoot_iff, c5, c6, a5, b5, val e M (by omega) (by omega) h1 h2,
    val d N c1 (by omega) c3 c4, val e' M' (by omega) (by omega) a3 a4, val e'' M'' (by omega) (by omega) b3 b4, a6]
  by_cases h : 1 ≤ singleValue x * (M * 2 ^ ((e : ℤ) - 150)) ^ 2
  · refine .inl (.inl ⟨sgn _ _ (by omega) c4, lt_of_le_of_lt (mul_le_mul_of_nonneg_left ?_ hx) hlo, h⟩)
    exact pow_le_pow_left₀ (by positivity) c7 2
  by_cases h' : 1 ≤ singleValue x * ((M + 1) * 2 ^ ((e : ℤ) - 150)) ^ 2
  · exact .inl (.inr ⟨sgn _ _ (by omega) h2, not_le.mp h, h'⟩)
  · refine .inr ⟨sgn _ _ (by omega) a4, not_le.mp h', hhi.trans (mul_le_mul_of_nonneg_left ?_ hx)⟩
    refine pow_le_pow_left₀ (by positivity) ?_ 2
    rw [b6, add_mul (M' : ℚ), a6]
    linarith

/-- Truncation to 24 bits loses less than one part in 2^23. -/
theorem sround_positive (n : ℤ) (k : ℕ) (r : ℚ) (hr : (n : ℚ) / 2 ^ k = r) (hmin : singleMin ≤ r) (hmax : r ≤ singleMax) :
    0 < singleValue (sround n k).1 ∧ singleValue (sround n k).1 ≤ r ∧
      r < singleValue (sround n k).1 * (1 + 1 / 2 ^ 23) := by
  have hr0 : 0 < r := lt_of_lt_of_le (by norm_num [singleMin]) hmin
  have habs : |r| = r := abs_of_pos hr0
  obtain ⟨e, M, b1, b2, b3, b4, b5, b6, b7⟩ := sround_between n k r hr (by rw [habs]; exact hmin) (by rw [habs]; exact hmax)
  have hneg : decide (r < 0) = false := by simp [hr0.le]
  have hp : (0 : ℚ) < 2 ^ ((e : ℤ) - 150) := by positivity
  have qM1 : (2 ^ 23 : ℚ) ≤ M := by exact_mod_cast b3
  rw [b5, hneg, singleValue_packSingle _ _ _ b1 b2 b3 b4]
  rw [habs] at b6 b7
  simp only [withSign, Bool.false_eq_true, if_false]
  refine ⟨by positivity, b6, b7.trans_le ?_⟩
  have : (M : ℚ) + 1 ≤ M * (1 + 1 / 2 ^ 23) := by linarith
  calc ((M : ℚ) + 1) * 2 ^ ((e : ℤ) - 150) ≤ M * (1 + 1 / 2 ^ 23) * 2 ^ ((e : ℤ) - 150) :=
        mul_le_mul_of_nonneg_right this hp.le
    _ = _ := by ring

/-- The Newton-Raphson step does not exceed `1/sqrt(x)` by a unit in the last place. -/
theorem root_step_upper (d V : ℚ) (hd : 0 < d) (hd1 : d < 1) (hV0 : 0 < V) (hV : V ≤ d + 1 / 2 ^ 23) :
    (1 - d) * (1 + V / 2) ^ 2 * (1 - 1 / 2 ^ 24) ^ 2 < 1 := by
  have h1 : (1 + V / 2) ^ 2 ≤ (1 + 1 / 2 ^ 24 + d / 2) ^ 2 :=
    pow_le_pow_left₀ (by positivity) (by norm_num at hV ⊢; linarith) 2
  have h2 : (1 - d) * (1 + 1 / 2 ^ 24 + d / 2) ^ 2 ≤ (1 + 1 / 2 ^ 24) ^ 2 := by
    have : 0 < d ^ 2 := by positivity
    have : 0 < d ^ 3 := by positivity
    nlinarith
  have h3 : (1 - d) * (1 + V / 2) ^ 2 ≤ (1 + 1 / 2 ^ 24) ^ 2 :=
    (mul_le_mul_of_nonneg_left h1 (by linarith)).trans h2
  calc (1 - d) * (1 + V / 2) ^ 2 * (1 - 1 / 2 ^ 24) ^ 2 ≤ (1 + 1 / 2 ^ 24) ^ 2 * (1 - 1 / 2 ^ 24) ^ 2 :=
        mul_le_mul_of_nonneg_right h3 (by positivity)
    _ < 1 := by norm_num

/-- Nor does it fall short of it by a unit in the last place. -/
theorem root_step_lower (d V : ℚ) (hd : 0 < d) (hd1 : d ≤ 1 / 4000) (hV : d * (1 - 1 / 2 ^ 23) ≤ V) :
    1 ≤ (1 - d) * (1 + V / 2) ^ 2 * (1 + 1 / 2 ^ 24) ^ 2 := by
  have hV0 : 0 ≤ V := le_trans (mul_nonneg hd.le (by norm_num)) hV
  have h1 : 1 + d * (1 - 1 / 2 ^ 23) ≤ (1 + V / 2) ^ 2 := by nlinarith [sq_nonneg V]
  have h2 : 1 - 1 / 2 ^ 23 * (3 / 5) ≤ (1 - d) * (1 + d * (1 - 1 / 2 ^ 23)) := by
    have : d ^ 2 ≤ (1 / 4000) ^ 2 := pow_le_pow_left₀ hd.le hd1 2
    have : 0 < d ^ 2 := by positivity
    norm_num at *
    nlinarith
  have h3 : 1 - 1 / 2 ^ 23 * (3 / 5) ≤ (1 - d) * (1 + V / 2) ^ 2 :=
    h2.trans (mul_le_mul_of_nonneg_left h1 (by linarith))
  calc (1 : ℚ) ≤ (1 - 1 / 2 ^ 23 * (3 / 5)) * (1 + 1 / 2 ^ 24) ^ 2 := by norm_num
    _ ≤ _ := mul_le_mul_of_nonneg_right h3 (by positivity)

/-- The base: the largest 13-bit fraction below `1/sqrt(x)`. -/
theorem root_base (m p B : ℕ) (hm1 : 2 ^ 23 ≤ m) (hm2 : m < 2 ^ 24) (hp1 : 50 ≤ p) (hp2 : p ≤ 51)
    (hB : Nat.sqrt ((2 ^ p - 1) / m) = B) :
    B ^ 2 * m < 2 ^ p ∧ 3999 * 2 ^ p ≤ 4000 * (B ^ 2 * m) ∧ 2 ^ 13 ≤ B ∧ B < 2 ^ 14 := by
  have hm0 : 0 < m := by omega
  have hpow : 2 ^ p = 2 ^ 50 ∨ 2 ^ p = 2 ^ 51 := by
    obtain rfl | rfl : p = 50 ∨ p = 51 := by omega
    · exact .inl rfl
    · exact .inr rfl
  generalize 2 ^ p = P at hB hpow ⊢
  have s1 : B ^ 2 ≤ (P - 1) / m := by rw [← hB, sq]; exact Nat.sqrt_le _
  have s2 : (P - 1) / m < (B + 1) ^ 2 := by rw [← hB, sq]; exact Nat.lt_succ_sqrt _
  have g1 : B ^ 2 * m < P := by
    have := (Nat.le_div_iff_mul_le hm0).mp s1
    omega
  have g2 : P ≤ (B + 1) ^ 2 * m := by
    have := (Nat.div_lt_iff_lt_mul hm0).mp s2
    omega
  have g3 : 2 ^ 13 ≤ B := by
    by_contra h
    have : (B + 1) ^ 2 ≤ (2 ^ 13) ^ 2 := Nat.pow_le_pow_left (by omega) 2
    have := Nat.mul_le_mul_right m this
    omega
  have g4 : B < 2 ^ 14 := by
    by_contra h
    have : (2 ^ 14) ^ 2 ≤ B ^ 2 := Nat.pow_le_pow_left (by omega) 2
    have := Nat.mul_le_mul_right m this
    omega
  refine ⟨g1, ?_, g3, g4⟩
  have h : 3999 * (B + 1) ^ 2 ≤ 4000 * B ^ 2 := by nlinarith
  have := Nat.mul_le_mul_right m h
  calc 3999 * P ≤ 3999 * ((B + 1) ^ 2 * m) := Nat.mul_le_mul_left _ g2
    _ = 3999 * (B + 1) ^ 2 * m := by ring
    _ ≤ 4000 * B ^ 2 * m := this
    _ = _ := by ring

/-- The sequence for a zero exponent. -/
theorem rootSequence_zero (x : Word) (h0 : sExp x = 0) : rootSequence x 0x7FFFFC00#32 = 0x7FFFFFFF#32 := by
  have hy : (singleReference .interp x 0x7FFFFC00#32 0#32).1 = 0x7FFFFC00#32 := by
    have : interpolate x 0x7FFFFC00#32 = interpolate 0#32 0x7FFFFC00#32 := by simp [interpolate]
    simp only [singleReference, singleExact, this]
    decide +kernel
  have hx : sx x = 0 := by simp [sx, h0]
  have ht : (singleReference .mul x 0x7FFFFC00#32 0#32).1 = 0#32 := by
    simp only [singleReference, singleExact, hx, zero_mul]
    decide +kernel
  simp only [rootSequence, hy, ht]
  decide +kernel

/-- The sequence on an estimate that is interpolated to a value `Y` with `x * Y^2 = 1 - d`, `d` small. -/
theorem rootSequence_near (x y0 : Word) (A Y d : ℚ) (B : ℕ) (z : ℤ) (hv : singleValue x = A)
    (v1 : singleValue (singleReference .interp x y0 0#32).1 = Y) (hY : Y = B * 2 ^ z) (hB : 0 < B) (hB2 : B < 2 ^ 24)
    (hA0 : 0 < A) (hYlo : 1 / 2 ^ 65 ≤ Y) (hYhi : Y ≤ 2 ^ 63) (hAY : A * Y ^ 2 = 1 - d) (hd0 : 1 / 2 ^ 51 ≤ d)
    (hd1 : d ≤ 1 / 4000) :
    ∃ V : ℚ, 0 < V ∧ V ≤ d + 1 / 2 ^ 23 ∧ d * (1 - 1 / 2 ^ 23) ≤ V ∧ ∃ (n : ℤ) (k : ℕ),
      (n : ℚ) / 2 ^ k = Y * (1 + V / 2) ∧ rootSequence x y0 = (sround n k).1 := by
  have hd00 : 0 < d := lt_of_lt_of_le (by norm_num) hd0
  have hY0 : 0 < Y := lt_of_lt_of_le (by norm_num) hYlo
  rw [rootSequence]
  obtain ⟨y1, hy1⟩ : ∃ y1, (singleReference .interp x y0 0#32).1 = y1 := ⟨_, rfl⟩
  rw [hy1] at v1 ⊢
  -- t1
  have hAYhi : A * Y ≤ 2 ^ 65 := by
    by_contra h
    have h := not_le.mp h
    have : 2 ^ 65 * (1 / 2 ^ 65) ≤ A * Y * Y := mul_le_mul h.le hYlo (by norm_num) (by positivity)
    have e : A * Y * Y = A * Y ^ 2 := by ring
    rw [e, hAY] at this
    norm_num at this
    linarith
  have hAYlo : 1 / 2 ^ 64 ≤ A * Y := by
    by_contra h
    have h := not_le.mp h
    have : A * Y * Y ≤ 1 / 2 ^ 64 * 2 ^ 63 := mul_le_mul h.le hYhi hY0.le (by norm_num)
    have e : A * Y * Y = A * Y ^ 2 := by ring
    rw [e, hAY] at this
    norm_num at this
    linarith
  have e1 := exact_mul x y1 0#32
  rw [hv, v1] at e1
  obtain ⟨T0, T1, T2⟩ := sround_positive _ _ _ e1 (by rw [singleMin]; refine le_trans ?_ hAYlo; norm_num)
    (by rw [singleMax]; refine hAYhi.trans ?_; norm_num)
  obtain ⟨t1, ht1⟩ : ∃ t1, (singleReference .mul x y1 0#32).1 = t1 := ⟨_, rfl⟩
  rw [show (sround (singleExact .mul x y1 0#32).1 (singleExact .mul x y1 0#32).2).1 = t1 from ht1] at T0 T1 T2
  simp only [ht1]
  obtain ⟨T, hT⟩ : ∃ T, singleValue t1 = T := ⟨_, rfl⟩
  rw [hT] at T0 T1 T2
  -- t2
  have e2 := exact_mul y1 singleHalf 0#32
  rw [v1, singleValue_half] at e2
  have a2 : |Y * (1 / 2)| = Y * (1 / 2) := abs_of_pos (by linarith)
  have v2 : singleValue (singleReference .mul y1 singleHalf 0#32).1 = Y * (1 / 2) := by
    refine sround_exact _ _ _ e2 B (z - 1) hB hB2 ?_ ?_ ?_
    · rw [a2, hY, zpow_sub_one₀ (by norm_num)]
      ring
    · rw [a2, singleMin]; norm_num at hYlo ⊢; linarith
    · rw [a2, singleMax]; norm_num at hYhi ⊢; linarith
  obtain ⟨t2, ht2⟩ : ∃ t2, (singleReference .mul y1 singleHalf 0#32).1 = t2 := ⟨_, rfl⟩
  rw [ht2] at v2
  simp only [ht2]
  -- t3
  have e3 := exact_nmsub t1 y1 singleOne
  rw [singleValue_one, hT, v1] at e3
  have hTY : T * Y ≤ 1 - d := by
    have := mul_le_mul_of_nonneg_right T1 hY0.le
    rw [← hAY]; linarith
  have hTY2 : (1 - d) ≤ T * Y * (1 + 1 / 2 ^ 23) := by
    have := mul_le_mul_of_nonneg_right T2.le hY0.le
    rw [← hAY]; linarith
  have hTY0 : 0 < T * Y := mul_pos T0 hY0
  obtain ⟨V0, V1, V2⟩ := sround_positive _ _ _ e3 (by rw [singleMin]; norm_num at hd0 ⊢; linarith)
    (by rw [singleMax]; refine le_trans (b := 1) (by linarith) (by norm_num))
  obtain ⟨t3, ht3⟩ : ∃ t3, (singleReference .nmsub t1 y1 singleOne).1 = t3 := ⟨_, rfl⟩
  rw [show (sround (singleExact .nmsub t1 y1 singleOne).1 (singleExact .nmsub t1 y1 singleOne).2).1 = t3 from ht3]
    at V0 V1 V2
  simp only [ht3]
  obtain ⟨V, hV⟩ : ∃ V, singleValue t3 = V := ⟨_, rfl⟩
  rw [hV] at V0 V1 V2
  have hVhi : V ≤ d + 1 / 2 ^ 23 := by norm_num at hTY2 ⊢; nlinarith
  have hVlo : d * (1 - 1 / 2 ^ 23) ≤ V := by norm_num at V2 ⊢; nlinarith
  have e4 := exact_madd t3 t2 y1
  have e5 : singleValue t3 * singleValue t2 + singleValue y1 = Y * (1 + V / 2) := by rw [hV, v2, v1]; ring
  rw [e5] at e4
  exact ⟨V, V0, hVhi, hVlo, _, _, e4, rfl⟩

/-- The last rounding of the sequence. -/
theorem root_round (x : Word) (A Y d V : ℚ) (n : ℤ) (k : ℕ) (hv : singleValue x = A) (hA0 : 0 < A)
    (hYlo : 1 / 2 ^ 65 ≤ Y) (hYhi : Y ≤ 2 ^ 63) (hAY : A * Y ^ 2 = 1 - d) (hd00 : 0 < d) (hd1 : d ≤ 1 / 4000)
    (V0 : 0 < V) (hVhi : V ≤ d + 1 / 2 ^ 23) (hVlo : d * (1 - 1 / 2 ^ 23) ≤ V)
    (e4 : (n : ℚ) / 2 ^ k = Y * (1 + V / 2)) :
    (isRoot x ((sround n k).1 - 1#32) || isRoot x (sround n k).1 || isRoot x (inc (sround n k).1)) = true := by
  have hY0 : 0 < Y := lt_of_lt_of_le (by norm_num) hYlo
  have hV1 : V ≤ 1 := by norm_num at hVhi; linarith
  obtain ⟨R, hR⟩ : ∃ R, R = Y * (1 + V / 2) := ⟨_, rfl⟩
  rw [← hR] at e4
  have hRY : Y ≤ R := by rw [hR]; nlinarith
  have hRY2 : R ≤ 2 * Y := by rw [hR]; nlinarith
  have hR0 : 0 < R := by linarith
  have habs : |R| = R := abs_of_pos hR0
  have hAR : A * R ^ 2 = (1 - d) * (1 + V / 2) ^ 2 := by rw [hR, mul_pow, ← mul_assoc, hAY]
  obtain ⟨e', M, b1, b2, b3, b4, b5, b6, b7⟩ := sround_between _ _ _ e4
    (by rw [habs, singleMin]; refine le_trans ?_ (hYlo.trans hRY); norm_num)
    (by rw [habs, singleMax]; norm_num at hYhi ⊢; linarith)
  rw [show decide (R < 0) = false by simp [hR0.le]] at b5
  rw [habs] at b6 b7
  rw [b5]
  have hp' : (0 : ℚ) < 2 ^ ((e' : ℤ) - 150) := by positivity
  have qM1 : (2 ^ 23 : ℚ) ≤ M := by exact_mod_cast b3
  have qM2 : (M : ℚ) + 1 ≤ 2 ^ 24 := by exact_mod_cast b4
  have he1 : 2 ≤ e' := by
    by_contra h
    have q : (2 : ℚ) ^ ((e' : ℤ) - 150) ≤ 2 ^ (-148 : ℤ) := zpow_le_zpow_right₀ (by norm_num) (by omega)
    have : (M + 1) * 2 ^ ((e' : ℤ) - 150) ≤ (2 : ℚ) ^ 24 * 2 ^ (-148 : ℤ) :=
      mul_le_mul qM2 q (by positivity) (by positivity)
    norm_num at this hYlo
    linarith
  have he2 : e' ≤ 252 := by
    by_contra h
    have q : (2 : ℚ) ^ (103 : ℤ) ≤ 2 ^ ((e' : ℤ) - 150) := zpow_le_zpow_right₀ (by norm_num) (by omega)
    have : (2 : ℚ) ^ 23 * 2 ^ (103 : ℤ) ≤ M * 2 ^ ((e' : ℤ) - 150) := mul_le_mul qM1 q (by positivity) (by positivity)
    norm_num at this hYhi
    linarith
  obtain ⟨U, hU⟩ : ∃ U : ℚ, U = 2 ^ ((e' : ℤ) - 150) := ⟨_, rfl⟩
  rw [← hU] at b6 b7 hp'
  refine root_near x e' M he1 he2 b3 b4 (by rw [hv]; exact hA0.le) ?_ ?_ <;> rw [hv, ← hU]
  · refine lt_of_le_of_lt (mul_le_mul_of_nonneg_left (pow_le_pow_left₀ ?_ (mul_le_mul_of_nonneg_right b6 ?_) 2) hA0.le) ?_
    · exact mul_nonneg (by positivity) (by norm_num)
    · norm_num
    · rw [mul_pow, ← mul_assoc, hAR]
      exact root_step_upper d V hd00 (by linarith) V0 hVhi
  · refine (root_step_lower d V hd00 hd1 hVlo).trans ?_
    rw [← hAR, mul_assoc, ← mul_pow]
    refine mul_le_mul_of_nonneg_left (pow_le_pow_left₀ (by positivity) ?_ 2) hA0.le
    have c1 : (M + 1) * U ≤ 2 ^ 24 * U := mul_le_mul_of_nonneg_right qM2 hp'.le
    have c2 : (M + 2) * U = (M + 1) * U + U := by ring
    norm_num at c1 ⊢
    linarith

/-- The example of `frsqest` meets what the spec states. -/
theorem rootOk_example (x : Word) (hs : x.getLsbD 31 = false) : rootOk x (rootExample x) = true := by
  unfold rootOk rootExample
  have hE : sExp x ≤ 255 := by rw [sExp_toNat]; omega
  have hf := sFrac_lt x
  by_cases h0 : sExp x = 0
  · simp only [h0, if_true, rootSequence_zero x h0]
    split <;> decide
  simp only [h0, if_false]
  obtain ⟨m, hm⟩ : ∃ m, 2 ^ 23 + sFrac x = m := ⟨_, rfl⟩
  obtain ⟨e, he⟩ : ∃ e, sExp x = e := ⟨_, rfl⟩
  obtain ⟨p, hp⟩ : ∃ p, 50 + e % 2 = p := ⟨_, rfl⟩
  obtain ⟨E, hEe⟩ : ∃ E, (380 - e) / 2 = E := ⟨_, rfl⟩
  obtain ⟨B, hB⟩ : ∃ B, Nat.sqrt ((2 ^ p - 1) / m) = B := ⟨_, rfl⟩
  have hv := mantissa_sign x h0
  rw [hm, he, hs] at hv
  rw [hm, he, hp, hEe, hB]
  rw [he] at h0 hE
  obtain ⟨g1, g2, g3, g4⟩ := root_base m p B (by omega) (by omega) (by omega) (by omega) hB
  rw [show (0#1 : BitVec 1) = BitVec.ofBool false from rfl, base_word false _ B g4]
  obtain ⟨A, hA⟩ : ∃ A : ℚ, A = m * 2 ^ ((e : ℤ) - 150) := ⟨_, rfl⟩
  obtain ⟨Y, hY⟩ : ∃ Y : ℚ, Y = B * 2 ^ ((E : ℤ) - 140) := ⟨_, rfl⟩
  rw [← hA] at hv
  simp only [withSign, Bool.false_eq_true, if_false] at hv
  have qm : (2 ^ 23 : ℚ) ≤ m := by exact_mod_cast (by omega : 2 ^ 23 ≤ m)
  have qB1 : (2 ^ 13 : ℚ) ≤ B := by exact_mod_cast g3
  have qB2 : (B : ℚ) ≤ 2 ^ 14 := by exact_mod_cast g4.le
  have hA0 : 0 < A := by rw [hA]; positivity
  have hYlo : 1 / 2 ^ 65 ≤ Y := by
    have q : (2 : ℚ) ^ (-78 : ℤ) ≤ 2 ^ ((E : ℤ) - 140) := zpow_le_zpow_right₀ (by norm_num) (by omega)
    calc (1 : ℚ) / 2 ^ 65 = (2 : ℚ) ^ 13 * 2 ^ (-78 : ℤ) := by norm_num
      _ ≤ Y := hY ▸ mul_le_mul qB1 q (by positivity) (by positivity)
  have hYhi : Y ≤ 2 ^ 63 := by
    have q : (2 : ℚ) ^ ((E : ℤ) - 140) ≤ 2 ^ (49 : ℤ) := zpow_le_zpow_right₀ (by norm_num) (by omega)
    calc Y ≤ (2 : ℚ) ^ 14 * 2 ^ (49 : ℤ) := hY ▸ mul_le_mul qB2 q (by positivity) (by positivity)
      _ = 2 ^ 63 := by norm_num
  have hY0 : 0 < Y := lt_of_lt_of_le (by norm_num) hYlo
  -- `x * base^2 = 1 - d`
  obtain ⟨d, hd⟩ : ∃ d : ℚ, d = ((2 ^ p - B ^ 2 * m : ℕ) : ℚ) / 2 ^ p := ⟨_, rfl⟩
  have hpp : (0 : ℚ) < 2 ^ p := by positivity
  have hAY : A * Y ^ 2 = 1 - d := by
    have : (2 : ℚ) ^ ((e : ℤ) - 150) * (2 ^ ((E : ℤ) - 140)) ^ 2 = 1 / 2 ^ p := by
      rw [← zpow_natCast (2 ^ ((E : ℤ) - 140)), ← zpow_mul, ← zpow_add₀ (by norm_num),
        show (e : ℤ) - 150 + ((E : ℤ) - 140) * ((2 : ℕ) : ℤ) = -(p : ℤ) by omega, zpow_neg, zpow_natCast, one_div]
    rw [hA, hY, mul_pow, mul_mul_mul_comm, this, hd, Nat.cast_sub g1.le]
    push_cast
    field_simp
    ring
  have hd0 : 1 / 2 ^ 51 ≤ d := by
    have h1 : (1 : ℚ) ≤ ((2 ^ p - B ^ 2 * m : ℕ) : ℚ) := by exact_mod_cast (by omega : 1 ≤ 2 ^ p - B ^ 2 * m)
    have h2 : (2 : ℚ) ^ p ≤ 2 ^ 51 := pow_le_pow_right₀ (by norm_num) (by omega)
    rw [hd]
    exact div_le_div₀ (by linarith) h1 hpp h2
  have hd1 : d ≤ 1 / 4000 := by
    rw [hd, div_le_div_iff₀ hpp (by norm_num), Nat.cast_sub g1.le]
    have : (3999 * 2 ^ p : ℚ) ≤ 4000 * (B ^ 2 * m) := by exact_mod_cast g2
    push_cast
    linarith
  have hd00 : 0 < d := lt_of_lt_of_le (by norm_num) hd0
  have v1 := interp_base x false E B (by omega) (by omega) g3 g4
  rw [← hY] at v1
  simp only [withSign, Bool.false_eq_true, if_false] at v1
  obtain ⟨V, V0, V1, V2, n, k, e1, e2⟩ := rootSequence_near x _ A Y d B _ hv v1 hY (by omega) (by omega) hA0 hYlo hYhi
    hAY hd0 hd1
  simp only [e2]
  exact root_round x A Y d V n k hv hA0 hYlo hYhi hAY hd00 hd1 V0 V1 V2 e1

/-- FRSQEST_TABLE meets what the spec states of it, with sign 0. -/
theorem rootOk_estimate (x : Word) :
    rootOk (0#1 ++ x.extractLsb' 0 31) (rootEstimate x) = true ∧ (rootEstimate x).getLsbD 31 = false := by
  have hs (y : BitVec 31) : (0#1 ++ y).getLsbD 31 = false := by rw [BitVec.getLsbD_append]; simp
  have he (y : Word) : (rootExample y).getLsbD 31 = false := by
    unfold rootExample
    split
    · decide
    · rw [BitVec.getLsbD_append]; simp
  unfold rootEstimate
  simp only
  split
  · exact ⟨by assumption, hs _⟩
  · exact ⟨rootOk_example _ (hs _), he _⟩

end Sys2Proof.Machine
end

