-- ==== Sys2Proof/Laws/Shape.lean ====
section
/-!
SUPPORT. What any instruction can do, said once: `exec_shape` names the shared operation its meaning ends in, with
what the tables of Safety.lean say of the instruction. A fact about all instructions is then a case for each shape
instead of one for each instruction.
-/

set_option Elab.async false

namespace Sys2Proof.Machine

/-- A next address that an instruction at `s.pc` can produce: within the effective storage, and a word address where
`s.pc` is one. -/
def PcOk (s : State) (pc : Word) : Prop := pc &&& ~~~s.lslr = 0#32 ∧ (s.pc &&& 3#32 = 0#32 → pc &&& 3#32 = 0#32)

/-- `r` is what an instruction `i` may answer in `s`. -/
inductive Shape (i : Instr) (s : State) : Result → Prop
  | write {b : State} {rt : Reg} (v : Quad) (hb : b = s ∨ b = s.takeFree) (ht : i.target = some rt) :
      Shape i s (b.write rt v)
  | writeFlags {b : State} {rt : Reg} (v flags : Quad) (hb : b = s ∨ b = s.takeFree) (ht : i.target = some rt)
      (hf : flags &&& ~~~i.flagMask = 0#128) : Shape i s (b.writeFlags rt v flags)
  | store (ea : Word) (v : Quad) (hs : i.stores = true) : Shape i s (.next (s.store ea v).advance)
  | jump {b : State} (pc : Word) (ie : Bool)
      (hb : b = s ∨ b = s.takeFree ∨ ∃ rt v, i.target = some rt ∧ b = s.setReg rt v) (hp : PcOk s pc)
      (hseq : i.mayLeaveSequence = false → pc = s.nextPc)
      (hie : ie = s.ie ∨ ∃ d e, i.features = some (d, e) ∧ d ≠ e ∧ ie = e) :
      Shape i s (.next { b with pc := pc, ie := ie })
  | stop {b : State} (ev : StopEvent) (hb : b = s ∧ i.mayLeaveSequence = true ∨ b = s.advance) :
      Shape i s (.next (b.stopWith ev))
  | sync {b : State} (hb : b = s.syncC ∨ b = s.fetchSync ∨ b = s.dataSync) : Shape i s (.next b.advance)
  | setFpscr (v : Quad) (hi : ∃ ra rt, i = .fscrwr ra rt) :
      Shape i s (.next { s with fpscr := v &&& fpscrMask }.advance)
  | setSpr (sa : BitVec 7) (v : Quad) : Shape i s (.next (s.writeSpr sa v).advance)
  | readChannel {rt : Reg} (ca : BitVec 7) (ht : i.target = some rt) (hs : i.mayLeaveSequence = true) :
      Shape i s (.next (s.readChannel rt ca))
  | writeChannel (ca : BitVec 7) (rt : Reg) (hs : i.mayLeaveSequence = true) : Shape i s (.next (s.writeChannel ca rt))
  | fault (f : Fault) : Shape i s (.fault f)

/- Addresses. -/

theorem aligned_iff (w : Word) : w &&& 3#32 = 0#32 ↔ w.toNat % 4 = 0 := by
  rw [← BitVec.toNat_inj, BitVec.toNat_and]
  exact Iff.of_eq (congrArg (· = 0) (Nat.and_two_pow_sub_one_eq_mod w.toNat 2))

theorem aligned_and {w : Word} (v : Word) (h : w &&& 3#32 = 0#32) : w &&& v &&& 3#32 = 0#32 := by
  rw [BitVec.and_assoc, BitVec.and_comm v, ← BitVec.and_assoc, h, BitVec.zero_and]

theorem aligned_add {w v : Word} (h : w &&& 3#32 = 0#32) (h' : v &&& 3#32 = 0#32) : (w + v) &&& 3#32 = 0#32 := by
  rw [aligned_iff] at *
  rw [BitVec.toNat_add]
  omega

theorem aligned_offset (i16 : BitVec 16) : (i16 ++ 0#2).signExtend 32 &&& 3#32 = 0#32 := by
  rw [aligned_iff]
  have h : ∀ k < 2, ((i16 ++ 0#2).signExtend 32).getLsbD k = false := by
    intro k hk
    rw [BitVec.getLsbD_signExtend, BitVec.getLsbD_append]
    simp [show k < 32 by omega, show k < 18 by omega, hk]
  have h0 := h 0 (by omega)
  have h1 := h 1 (by omega)
  simp only [BitVec.getLsbD, Nat.testBit_eq_decide_div_mod_eq] at h0 h1
  simp at h0 h1
  omega

theorem inside_and (w l : Word) : w &&& l &&& ~~~l = 0#32 := by
  rw [BitVec.and_assoc]
  simp

theorem pcOk_nextPc (s : State) : PcOk s s.nextPc :=
  ⟨inside_and _ _, fun h => aligned_and _ (aligned_add h (by decide))⟩

theorem pcOk_relTarget (s : State) (i16 : BitVec 16) : PcOk s (relTarget s.lslr s.pc i16) :=
  ⟨inside_and _ _, fun h => aligned_and _ (aligned_add h (aligned_offset i16))⟩

theorem pcOk_absTarget (s : State) (i16 : BitVec 16) : PcOk s (absTarget s.lslr i16) :=
  ⟨inside_and _ _, fun _ => aligned_and _ (aligned_offset i16)⟩

theorem pcOk_indTarget (s : State) (a : Word) : PcOk s (indTarget s.lslr a) := by
  refine ⟨?_, fun _ => ?_⟩
  · rw [indTarget, BitVec.and_assoc, BitVec.and_comm 0xFFFFFFFC#32, ← BitVec.and_assoc, inside_and]
    simp
  · rw [indTarget, BitVec.and_assoc]
    simp

/- Flags stay within the masks of the tables. -/

theorem word_and (p q : Quad) (j : Nat) : word (p &&& q) j = word p j &&& word q j := by
  simp [word, BitVec.extractLsb'_and]

theorem singleFlagQuad_mask (f : Nat → SingleFlags) : singleFlagQuad f &&& ~~~singleFlagMask = 0#128 := by
  refine quad_ext_words fun j hj => ?_
  rw [word_and, singleFlagQuad, word_ofWords _ _ hj]
  have h : ∀ g : SingleFlags, singleBits g &&& ~~~7#32 = 0#32 := by
    intro ⟨a, b, c⟩
    revert a b c
    decide
  have hm : ∀ j < 4, word (~~~singleFlagMask) j = ~~~7#32 ∧ word 0#128 j = 0#32 := by decide
  rw [(hm j hj).1, (hm j hj).2, h]

theorem dbzQuad_mask (z : Nat → Bool) : dbzQuad z &&& ~~~dbzMask = 0#128 := by
  refine quad_ext_words fun j hj => ?_
  rw [word_and, dbzQuad, word_ofWords _ _ hj]
  have hm : ∀ j < 4, word (~~~dbzMask) j = (if j = 3 then ~~~0xF00#32 else ~~~0#32) ∧ word 0#128 j = 0#32 := by decide
  rw [(hm j hj).1, (hm j hj).2]
  by_cases h3 : j = 3
  · simp only [h3, if_true]
    generalize z 0 = a, z 1 = b, z 2 = c, z 3 = d
    revert a b c d
    decide
  · simp [h3]

theorem doubleFlagQuad_sub {m : Quad} {w : Word} (hm : ∀ j < 4, word (~~~m) j = if j = 1 ∨ j = 2 then ~~~w else ~~~0#32)
    (f : Nat → DoubleFlags) (hf : ∀ k, doubleBits (f k) &&& ~~~w = 0#32) : doubleFlagQuad f &&& ~~~m = 0#128 := by
  refine quad_ext_words fun j hj => ?_
  have h0 : word 0#128 j = 0#32 := by simp [word]
  rw [word_and, doubleFlagQuad, word_ofWords _ _ hj, hm j hj, h0]
  by_cases h1 : j = 1
  · simp [h1, hf]
  · by_cases h2 : j = 2
    · simp [h2, hf]
    · simp [h1, h2]

theorem doubleBits_mask (g : DoubleFlags) : doubleBits g &&& ~~~0x3F00#32 = 0#32 := by
  obtain ⟨a, b, c, d, e, f⟩ := g
  revert a b c d e f
  decide

theorem doubleFlagQuad_mask (f : Nat → DoubleFlags) : doubleFlagQuad f &&& ~~~doubleFlagMask = 0#128 :=
  doubleFlagQuad_sub (by decide) f fun _ => doubleBits_mask _

/- Shapes of the shared operations. -/

theorem Shape.of_loadTo {i : Instr} {s : State} {rt : Reg} (ea : Word) (ht : i.target = some rt) :
    Shape i s (s.loadTo rt ea) :=
  .write _ (s.choose_spec _ _).2 ht

theorem Shape.of_advance {i : Instr} {s : State} : Shape i s (.next s.advance) :=
  .jump (b := s) s.nextPc s.ie (.inl rfl) (pcOk_nextPc s) (fun _ => rfl) (.inl rfl)

theorem Shape.of_branchIf {i : Instr} {s b : State} (c : Bool) {target : Word}
    (hb : b = s ∨ ∃ rt v, i.target = some rt ∧ b = s.setReg rt v) (hp : PcOk s target)
    (hs : i.mayLeaveSequence = true) : Shape i s (b.branchIf c target) := by
  have key (pc : Word) (h : PcOk s pc) : Shape i s (.next { b with pc := pc }) := by
    have hie : b.ie = s.ie := by rcases hb with rfl | ⟨_, _, _, rfl⟩ <;> rfl
    exact .jump (b := b) pc b.ie (hb.imp_right .inr) h (fun hn => by simp [hs] at hn) (.inl hie)
  have hn : b.nextPc = s.nextPc := by rcases hb with rfl | ⟨_, _, _, rfl⟩ <;> rfl
  cases c
  · exact key b.nextPc (hn ▸ pcOk_nextPc s)
  · exact key target hp

theorem Shape.of_branchIndirect {i : Instr} {s b : State} {d e : Bool} (a : Word)
    (hb : b = s ∨ b = s.takeFree ∨ ∃ rt v, i.target = some rt ∧ b = s.setReg rt v)
    (hf : i.features = some (d, e)) (hs : i.mayLeaveSequence = true) :
    Shape i s (b.branchIndirect d e (indTarget s.lslr a)) := by
  have hie : b.ie = s.ie := by rcases hb with rfl | rfl | ⟨_, _, _, rfl⟩ <;> rfl
  rcases b.branchIndirect_cases d e (indTarget s.lslr a) with ⟨_, _, h⟩ | ⟨hde, h⟩ <;> rw [h]
  · exact .fault _
  · refine .jump _ _ hb (pcOk_indTarget s a) (fun hn => by simp [hs] at hn) ?_
    rw [hie]
    cases d <;> cases e <;> simp_all [ieAfter]

theorem Shape.of_branchIndirectIf {i : Instr} {s b : State} {d e : Bool} (c : Bool) (a : Word)
    (hb : b = s ∨ ∃ rt v, i.target = some rt ∧ b = s.setReg rt v)
    (hf : i.features = some (d, e)) (hs : i.mayLeaveSequence = true) :
    Shape i s (b.branchIndirectIf c d e (indTarget s.lslr a)) := by
  cases c
  · exact Shape.of_branchIf false (target := s.nextPc) hb (pcOk_nextPc s) hs
  · exact Shape.of_branchIndirect a (hb.imp_right .inr) hf hs

theorem Shape.of_haltIf {i : Instr} {s : State} (c : Bool) (hs : i.mayLeaveSequence = true) : Shape i s (s.haltIf c) := by
  cases c
  · exact .of_advance
  · exact .stop (b := s) _ (.inl ⟨rfl, hs⟩)

theorem Shape.of_singleArith {i : Instr} {s : State} {rt : Reg} (op : SingleOp) (a b c : Quad)
    (ht : i.target = some rt) (hf : i.flagMask = singleFlagMask) : Shape i s (s.singleArith op rt a b c) :=
  .writeFlags _ _ (.inl rfl) ht (hf ▸ singleFlagQuad_mask _)

theorem Shape.of_doubleArith {i : Instr} {s : State} {rt : Reg} (op : DoubleOp) (post : Dword → Dword) (a b c : Quad)
    (ht : i.target = some rt) (hf : i.flagMask = doubleFlagMask) : Shape i s (s.doubleArith op post rt a b c) :=
  .writeFlags _ _ (.inl rfl) ht (hf ▸ doubleFlagQuad_mask _)

theorem Shape.of_estimate {i : Instr} {s : State} {rt : Reg} (f : Word → Word) (a : Quad)
    (ht : i.target = some rt) (hf : i.flagMask = dbzMask) : Shape i s (s.estimate f rt a) :=
  .writeFlags _ _ (.inl rfl) ht (hf ▸ dbzQuad_mask _)

theorem Shape.of_convertUndefined {i : Instr} {s : State} {rt : Reg} (ht : i.target = some rt)
    (hf : i.flagMask = singleFlagMask) : Shape i s (s.convertUndefined rt) :=
  .writeFlags _ _ (.inr rfl) ht (hf ▸ singleFlagQuad_mask _)

theorem Shape.of_convertFromInt {i : Instr} {s : State} {rt : Reg} (op : SingleOp) (a : Quad) (scale : Nat)
    (ht : i.target = some rt) (hf : i.flagMask = singleFlagMask) : Shape i s (s.convertFromInt op rt a scale) := by
  unfold State.convertFromInt
  split
  · exact .of_singleArith _ _ _ _ ht hf
  · exact .of_convertUndefined ht hf

theorem Shape.of_convertToInt {i : Instr} {s : State} {rt : Reg} (f : Word → Nat → Word) (a : Quad) (scale : Nat)
    (ht : i.target = some rt) (hf : i.flagMask = if scale ≤ 127 then 0#128 else singleFlagMask) :
    Shape i s (s.convertToInt f rt a scale) := by
  unfold State.convertToInt
  split
  · exact .write _ (.inl rfl) ht
  · rename_i h
    exact .of_convertUndefined ht (hf.trans (if_neg h))

theorem Shape.of_ifDpCompare {i j : Instr} {s : State} {r : Result} (h : Shape i s r) :
    Shape i s (s.ifDpCompare j r) := by
  unfold State.ifDpCompare
  split
  · exact h
  · exact .fault _

theorem Shape.of_doubleCompare {i : Instr} {s : State} {rt : Reg} (cmp : Dword → Dword → Bool) (a b : Quad)
    (ht : i.target = some rt) (hf : i.flagMask = invMask) : Shape i s (s.doubleCompare cmp rt a b) := by
  refine .writeFlags _ _ (.inl rfl) ht (hf ▸ doubleFlagQuad_sub (w := 0x400#32) (by decide) _ fun k => ?_)
  generalize (dNaN (dword a k) || dNaN (dword b k)) = n
  revert n
  decide

/- The instructions. -/

theorem shape_lqd (rt ra : Reg) (i10 : BitVec 10) (s : State) : Shape (.lqd rt ra i10) s (execLqd rt ra i10 s) :=
  .of_loadTo _ rfl
theorem shape_lqx (rt ra rb : Reg) (s : State) : Shape (.lqx rt ra rb) s (execLqx rt ra rb s) :=
  .of_loadTo _ rfl
theorem shape_lqa (rt : Reg) (i16 : BitVec 16) (s : State) : Shape (.lqa rt i16) s (execLqa rt i16 s) :=
  .of_loadTo _ rfl
theorem shape_lqr (rt : Reg) (i16 : BitVec 16) (s : State) : Shape (.lqr rt i16) s (execLqr rt i16 s) :=
  .of_loadTo _ rfl
theorem shape_stqd (rt ra : Reg) (i10 : BitVec 10) (s : State) : Shape (.stqd rt ra i10) s (execStqd rt ra i10 s) :=
  .store _ _ rfl
theorem shape_stqx (rt ra rb : Reg) (s : State) : Shape (.stqx rt ra rb) s (execStqx rt ra rb s) :=
  .store _ _ rfl
theorem shape_stqa (rt : Reg) (i16 : BitVec 16) (s : State) : Shape (.stqa rt i16) s (execStqa rt i16 s) :=
  .store _ _ rfl
theorem shape_stqr (rt : Reg) (i16 : BitVec 16) (s : State) : Shape (.stqr rt i16) s (execStqr rt i16 s) :=
  .store _ _ rfl
theorem shape_cbd (rt ra : Reg) (i7 : BitVec 7) (s : State) : Shape (.cbd rt ra i7) s (execCbd rt ra i7 s) :=
  .write _ (.inl rfl) rfl
theorem shape_cbx (rt ra rb : Reg) (s : State) : Shape (.cbx rt ra rb) s (execCbx rt ra rb s) :=
  .write _ (.inl rfl) rfl
theorem shape_chd (rt ra : Reg) (i7 : BitVec 7) (s : State) : Shape (.chd rt ra i7) s (execChd rt ra i7 s) :=
  .write _ (.inl rfl) rfl
theorem shape_chx (rt ra rb : Reg) (s : State) : Shape (.chx rt ra rb) s (execChx rt ra rb s) :=
  .write _ (.inl rfl) rfl
theorem shape_cwd (rt ra : Reg) (i7 : BitVec 7) (s : State) : Shape (.cwd rt ra i7) s (execCwd rt ra i7 s) :=
  .write _ (.inl rfl) rfl
theorem shape_cwx (rt ra rb : Reg) (s : State) : Shape (.cwx rt ra rb) s (execCwx rt ra rb s) :=
  .write _ (.inl rfl) rfl
theorem shape_cdd (rt ra : Reg) (i7 : BitVec 7) (s : State) : Shape (.cdd rt ra i7) s (execCdd rt ra i7 s) :=
  .write _ (.inl rfl) rfl
theorem shape_cdx (rt ra rb : Reg) (s : State) : Shape (.cdx rt ra rb) s (execCdx rt ra rb s) :=
  .write _ (.inl rfl) rfl
theorem shape_ilh (rt : Reg) (i16 : BitVec 16) (s : State) : Shape (.ilh rt i16) s (execIlh rt i16 s) :=
  .write _ (.inl rfl) rfl
theorem shape_ilhu (rt : Reg) (i16 : BitVec 16) (s : State) : Shape (.ilhu rt i16) s (execIlhu rt i16 s) :=
  .write _ (.inl rfl) rfl
theorem shape_il (rt : Reg) (i16 : BitVec 16) (s : State) : Shape (.il rt i16) s (execIl rt i16 s) :=
  .write _ (.inl rfl) rfl
theorem shape_ila (rt : Reg) (i18 : BitVec 18) (s : State) : Shape (.ila rt i18) s (execIla rt i18 s) :=
  .write _ (.inl rfl) rfl
theorem shape_iohl (rt : Reg) (i16 : BitVec 16) (s : State) : Shape (.iohl rt i16) s (execIohl rt i16 s) :=
  .write _ (.inl rfl) rfl
theorem shape_fsmbi (rt : Reg) (i16 : BitVec 16) (s : State) : Shape (.fsmbi rt i16) s (execFsmbi rt i16 s) :=
  .write _ (.inl rfl) rfl
theorem shape_ah (rt ra rb : Reg) (s : State) : Shape (.ah rt ra rb) s (execAh rt ra rb s) :=
  .write _ (.inl rfl) rfl
theorem shape_ahi (rt ra : Reg) (i10 : BitVec 10) (s : State) : Shape (.ahi rt ra i10) s (execAhi rt ra i10 s) :=
  .write _ (.inl rfl) rfl
theorem shape_a (rt ra rb : Reg) (s : State) : Shape (.a rt ra rb) s (execA rt ra rb s) :=
  .write _ (.inl rfl) rfl
theorem shape_ai (rt ra : Reg) (i10 : BitVec 10) (s : State) : Shape (.ai rt ra i10) s (execAi rt ra i10 s) :=
  .write _ (.inl rfl) rfl
theorem shape_sfh (rt ra rb : Reg) (s : State) : Shape (.sfh rt ra rb) s (execSfh rt ra rb s) :=
  .write _ (.inl rfl) rfl
theorem shape_sfhi (rt ra : Reg) (i10 : BitVec 10) (s : State) : Shape (.sfhi rt ra i10) s (execSfhi rt ra i10 s) :=
  .write _ (.inl rfl) rfl
theorem shape_sf (rt ra rb : Reg) (s : State) : Shape (.sf rt ra rb) s (execSf rt ra rb s) :=
  .write _ (.inl rfl) rfl
theorem shape_sfi (rt ra : Reg) (i10 : BitVec 10) (s : State) : Shape (.sfi rt ra i10) s (execSfi rt ra i10 s) :=
  .write _ (.inl rfl) rfl
theorem shape_addx (rt ra rb : Reg) (s : State) : Shape (.addx rt ra rb) s (execAddx rt ra rb s) :=
  .write _ (.inl rfl) rfl
theorem shape_cg (rt ra rb : Reg) (s : State) : Shape (.cg rt ra rb) s (execCg rt ra rb s) :=
  .write _ (.inl rfl) rfl
theorem shape_cgx (rt ra rb : Reg) (s : State) : Shape (.cgx rt ra rb) s (execCgx rt ra rb s) :=
  .write _ (.inl rfl) rfl
theorem shape_sfx (rt ra rb : Reg) (s : State) : Shape (.sfx rt ra rb) s (execSfx rt ra rb s) :=
  .write _ (.inl rfl) rfl
theorem shape_bg (rt ra rb : Reg) (s : State) : Shape (.bg rt ra rb) s (execBg rt ra rb s) :=
  .write _ (.inl rfl) rfl
theorem shape_bgx (rt ra rb : Reg) (s : State) : Shape (.bgx rt ra rb) s (execBgx rt ra rb s) :=
  .write _ (.inl rfl) rfl
theorem shape_mpy (rt ra rb : Reg) (s : State) : Shape (.mpy rt ra rb) s (execMpy rt ra rb s) :=
  .write _ (.inl rfl) rfl
theorem shape_mpyu (rt ra rb : Reg) (s : State) : Shape (.mpyu rt ra rb) s (execMpyu rt ra rb s) :=
  .write _ (.inl rfl) rfl
theorem shape_mpyi (rt ra : Reg) (i10 : BitVec 10) (s : State) : Shape (.mpyi rt ra i10) s (execMpyi rt ra i10 s) :=
  .write _ (.inl rfl) rfl
theorem shape_mpyui (rt ra : Reg) (i10 : BitVec 10) (s : State) :
    Shape (.mpyui rt ra i10) s (execMpyui rt ra i10 s) :=
  .write _ (.inl rfl) rfl
theorem shape_mpya (rt ra rb rc : Reg) (s : State) : Shape (.mpya rt ra rb rc) s (execMpya rt ra rb rc s) :=
  .write _ (.inl rfl) rfl
theorem shape_mpyh (rt ra rb : Reg) (s : State) : Shape (.mpyh rt ra rb) s (execMpyh rt ra rb s) :=
  .write _ (.inl rfl) rfl
theorem shape_mpys (rt ra rb : Reg) (s : State) : Shape (.mpys rt ra rb) s (execMpys rt ra rb s) :=
  .write _ (.inl rfl) rfl
theorem shape_mpyhh (rt ra rb : Reg) (s : State) : Shape (.mpyhh rt ra rb) s (execMpyhh rt ra rb s) :=
  .write _ (.inl rfl) rfl
theorem shape_mpyhha (rt ra rb : Reg) (s : State) : Shape (.mpyhha rt ra rb) s (execMpyhha rt ra rb s) :=
  .write _ (.inl rfl) rfl
theorem shape_mpyhhu (rt ra rb : Reg) (s : State) : Shape (.mpyhhu rt ra rb) s (execMpyhhu rt ra rb s) :=
  .write _ (.inl rfl) rfl
theorem shape_mpyhhau (rt ra rb : Reg) (s : State) : Shape (.mpyhhau rt ra rb) s (execMpyhhau rt ra rb s) :=
  .write _ (.inl rfl) rfl
theorem shape_clz (rt ra : Reg) (s : State) : Shape (.clz rt ra) s (execClz rt ra s) :=
  .write _ (.inl rfl) rfl
theorem shape_cntb (rt ra : Reg) (s : State) : Shape (.cntb rt ra) s (execCntb rt ra s) :=
  .write _ (.inl rfl) rfl
theorem shape_fsmb (rt ra : Reg) (s : State) : Shape (.fsmb rt ra) s (execFsmb rt ra s) :=
  .write _ (.inl rfl) rfl
theorem shape_fsmh (rt ra : Reg) (s : State) : Shape (.fsmh rt ra) s (execFsmh rt ra s) :=
  .write _ (.inl rfl) rfl
theorem shape_fsm (rt ra : Reg) (s : State) : Shape (.fsm rt ra) s (execFsm rt ra s) :=
  .write _ (.inl rfl) rfl
theorem shape_gbb (rt ra : Reg) (s : State) : Shape (.gbb rt ra) s (execGbb rt ra s) :=
  .write _ (.inl rfl) rfl
theorem shape_gbh (rt ra : Reg) (s : State) : Shape (.gbh rt ra) s (execGbh rt ra s) :=
  .write _ (.inl rfl) rfl
theorem shape_gb (rt ra : Reg) (s : State) : Shape (.gb rt ra) s (execGb rt ra s) :=
  .write _ (.inl rfl) rfl
theorem shape_avgb (rt ra rb : Reg) (s : State) : Shape (.avgb rt ra rb) s (execAvgb rt ra rb s) :=
  .write _ (.inl rfl) rfl
theorem shape_absdb (rt ra rb : Reg) (s : State) : Shape (.absdb rt ra rb) s (execAbsdb rt ra rb s) :=
  .write _ (.inl rfl) rfl
theorem shape_sumb (rt ra rb : Reg) (s : State) : Shape (.sumb rt ra rb) s (execSumb rt ra rb s) :=
  .write _ (.inl rfl) rfl
theorem shape_xsbh (rt ra : Reg) (s : State) : Shape (.xsbh rt ra) s (execXsbh rt ra s) :=
  .write _ (.inl rfl) rfl
theorem shape_xshw (rt ra : Reg) (s : State) : Shape (.xshw rt ra) s (execXshw rt ra s) :=
  .write _ (.inl rfl) rfl
theorem shape_xswd (rt ra : Reg) (s : State) : Shape (.xswd rt ra) s (execXswd rt ra s) :=
  .write _ (.inl rfl) rfl
theorem shape_and (rt ra rb : Reg) (s : State) : Shape (.and rt ra rb) s (execAnd rt ra rb s) :=
  .write _ (.inl rfl) rfl
theorem shape_andc (rt ra rb : Reg) (s : State) : Shape (.andc rt ra rb) s (execAndc rt ra rb s) :=
  .write _ (.inl rfl) rfl
theorem shape_andbi (rt ra : Reg) (i10 : BitVec 10) (s : State) :
    Shape (.andbi rt ra i10) s (execAndbi rt ra i10 s) :=
  .write _ (.inl rfl) rfl
theorem shape_andhi (rt ra : Reg) (i10 : BitVec 10) (s : State) :
    Shape (.andhi rt ra i10) s (execAndhi rt ra i10 s) :=
  .write _ (.inl rfl) rfl
theorem shape_andi (rt ra : Reg) (i10 : BitVec 10) (s : State) : Shape (.andi rt ra i10) s (execAndi rt ra i10 s) :=
  .write _ (.inl rfl) rfl
theorem shape_or (rt ra rb : Reg) (s : State) : Shape (.or rt ra rb) s (execOr rt ra rb s) :=
  .write _ (.inl rfl) rfl
theorem shape_orc (rt ra rb : Reg) (s : State) : Shape (.orc rt ra rb) s (execOrc rt ra rb s) :=
  .write _ (.inl rfl) rfl
theorem shape_orbi (rt ra : Reg) (i10 : BitVec 10) (s : State) : Shape (.orbi rt ra i10) s (execOrbi rt ra i10 s) :=
  .write _ (.inl rfl) rfl
theorem shape_orhi (rt ra : Reg) (i10 : BitVec 10) (s : State) : Shape (.orhi rt ra i10) s (execOrhi rt ra i10 s) :=
  .write _ (.inl rfl) rfl
theorem shape_ori (rt ra : Reg) (i10 : BitVec 10) (s : State) : Shape (.ori rt ra i10) s (execOri rt ra i10 s) :=
  .write _ (.inl rfl) rfl
theorem shape_orx (rt ra : Reg) (s : State) : Shape (.orx rt ra) s (execOrx rt ra s) :=
  .write _ (.inl rfl) rfl
theorem shape_xor (rt ra rb : Reg) (s : State) : Shape (.xor rt ra rb) s (execXor rt ra rb s) :=
  .write _ (.inl rfl) rfl
theorem shape_xorbi (rt ra : Reg) (i10 : BitVec 10) (s : State) :
    Shape (.xorbi rt ra i10) s (execXorbi rt ra i10 s) :=
  .write _ (.inl rfl) rfl
theorem shape_xorhi (rt ra : Reg) (i10 : BitVec 10) (s : State) :
    Shape (.xorhi rt ra i10) s (execXorhi rt ra i10 s) :=
  .write _ (.inl rfl) rfl
theorem shape_xori (rt ra : Reg) (i10 : BitVec 10) (s : State) : Shape (.xori rt ra i10) s (execXori rt ra i10 s) :=
  .write _ (.inl rfl) rfl
theorem shape_nand (rt ra rb : Reg) (s : State) : Shape (.nand rt ra rb) s (execNand rt ra rb s) :=
  .write _ (.inl rfl) rfl
theorem shape_nor (rt ra rb : Reg) (s : State) : Shape (.nor rt ra rb) s (execNor rt ra rb s) :=
  .write _ (.inl rfl) rfl
theorem shape_eqv (rt ra rb : Reg) (s : State) : Shape (.eqv rt ra rb) s (execEqv rt ra rb s) :=
  .write _ (.inl rfl) rfl
theorem shape_selb (rt ra rb rc : Reg) (s : State) : Shape (.selb rt ra rb rc) s (execSelb rt ra rb rc s) :=
  .write _ (.inl rfl) rfl
theorem shape_shufb (rt ra rb rc : Reg) (s : State) : Shape (.shufb rt ra rb rc) s (execShufb rt ra rb rc s) :=
  .write _ (.inl rfl) rfl
theorem shape_shlh (rt ra rb : Reg) (s : State) : Shape (.shlh rt ra rb) s (execShlh rt ra rb s) :=
  .write _ (.inl rfl) rfl
theorem shape_shlhi (rt ra : Reg) (i7 : BitVec 7) (s : State) : Shape (.shlhi rt ra i7) s (execShlhi rt ra i7 s) :=
  .write _ (.inl rfl) rfl
theorem shape_shl (rt ra rb : Reg) (s : State) : Shape (.shl rt ra rb) s (execShl rt ra rb s) :=
  .write _ (.inl rfl) rfl
theorem shape_shli (rt ra : Reg) (i7 : BitVec 7) (s : State) : Shape (.shli rt ra i7) s (execShli rt ra i7 s) :=
  .write _ (.inl rfl) rfl
theorem shape_shlqbi (rt ra rb : Reg) (s : State) : Shape (.shlqbi rt ra rb) s (execShlqbi rt ra rb s) :=
  .write _ (.inl rfl) rfl
theorem shape_shlqbii (rt ra : Reg) (i7 : BitVec 7) (s : State) :
    Shape (.shlqbii rt ra i7) s (execShlqbii rt ra i7 s) :=
  .write _ (.inl rfl) rfl
theorem shape_shlqby (rt ra rb : Reg) (s : State) : Shape (.shlqby rt ra rb) s (execShlqby rt ra rb s) :=
  .write _ (.inl rfl) rfl
theorem shape_shlqbyi (rt ra : Reg) (i7 : BitVec 7) (s : State) :
    Shape (.shlqbyi rt ra i7) s (execShlqbyi rt ra i7 s) :=
  .write _ (.inl rfl) rfl
theorem shape_shlqbybi (rt ra rb : Reg) (s : State) : Shape (.shlqbybi rt ra rb) s (execShlqbybi rt ra rb s) :=
  .write _ (.inl rfl) rfl
theorem shape_roth (rt ra rb : Reg) (s : State) : Shape (.roth rt ra rb) s (execRoth rt ra rb s) :=
  .write _ (.inl rfl) rfl
theorem shape_rothi (rt ra : Reg) (i7 : BitVec 7) (s : State) : Shape (.rothi rt ra i7) s (execRothi rt ra i7 s) :=
  .write _ (.inl rfl) rfl
theorem shape_rot (rt ra rb : Reg) (s : State) : Shape (.rot rt ra rb) s (execRot rt ra rb s) :=
  .write _ (.inl rfl) rfl
theorem shape_roti (rt ra : Reg) (i7 : BitVec 7) (s : State) : Shape (.roti rt ra i7) s (execRoti rt ra i7 s) :=
  .write _ (.inl rfl) rfl
theorem shape_rotqby (rt ra rb : Reg) (s : State) : Shape (.rotqby rt ra rb) s (execRotqby rt ra rb s) :=
  .write _ (.inl rfl) rfl
theorem shape_rotqbyi (rt ra : Reg) (i7 : BitVec 7) (s : State) :
    Shape (.rotqbyi rt ra i7) s (execRotqbyi rt ra i7 s) :=
  .write _ (.inl rfl) rfl
theorem shape_rotqbybi (rt ra rb : Reg) (s : State) : Shape (.rotqbybi rt ra rb) s (execRotqbybi rt ra rb s) :=
  .write _ (.inl rfl) rfl
theorem shape_rotqbi (rt ra rb : Reg) (s : State) : Shape (.rotqbi rt ra rb) s (execRotqbi rt ra rb s) :=
  .write _ (.inl rfl) rfl
theorem shape_rotqbii (rt ra : Reg) (i7 : BitVec 7) (s : State) :
    Shape (.rotqbii rt ra i7) s (execRotqbii rt ra i7 s) :=
  .write _ (.inl rfl) rfl
theorem shape_rothm (rt ra rb : Reg) (s : State) : Shape (.rothm rt ra rb) s (execRothm rt ra rb s) :=
  .write _ (.inl rfl) rfl
theorem shape_rothmi (rt ra : Reg) (i7 : BitVec 7) (s : State) : Shape (.rothmi rt ra i7) s (execRothmi rt ra i7 s) :=
  .write _ (.inl rfl) rfl
theorem shape_rotm (rt ra rb : Reg) (s : State) : Shape (.rotm rt ra rb) s (execRotm rt ra rb s) :=
  .write _ (.inl rfl) rfl
theorem shape_rotmi (rt ra : Reg) (i7 : BitVec 7) (s : State) : Shape (.rotmi rt ra i7) s (execRotmi rt ra i7 s) :=
  .write _ (.inl rfl) rfl
theorem shape_rotqmby (rt ra rb : Reg) (s : State) : Shape (.rotqmby rt ra rb) s (execRotqmby rt ra rb s) :=
  .write _ (.inl rfl) rfl
theorem shape_rotqmbyi (rt ra : Reg) (i7 : BitVec 7) (s : State) :
    Shape (.rotqmbyi rt ra i7) s (execRotqmbyi rt ra i7 s) :=
  .write _ (.inl rfl) rfl
theorem shape_rotqmbybi (rt ra rb : Reg) (s : State) : Shape (.rotqmbybi rt ra rb) s (execRotqmbybi rt ra rb s) :=
  .write _ (.inl rfl) rfl
theorem shape_rotqmbi (rt ra rb : Reg) (s : State) : Shape (.rotqmbi rt ra rb) s (execRotqmbi rt ra rb s) :=
  .write _ (.inl rfl) rfl
theorem shape_rotqmbii (rt ra : Reg) (i7 : BitVec 7) (s : State) :
    Shape (.rotqmbii rt ra i7) s (execRotqmbii rt ra i7 s) :=
  .write _ (.inl rfl) rfl
theorem shape_rotmah (rt ra rb : Reg) (s : State) : Shape (.rotmah rt ra rb) s (execRotmah rt ra rb s) :=
  .write _ (.inl rfl) rfl
theorem shape_rotmahi (rt ra : Reg) (i7 : BitVec 7) (s : State) :
    Shape (.rotmahi rt ra i7) s (execRotmahi rt ra i7 s) :=
  .write _ (.inl rfl) rfl
theorem shape_rotma (rt ra rb : Reg) (s : State) : Shape (.rotma rt ra rb) s (execRotma rt ra rb s) :=
  .write _ (.inl rfl) rfl
theorem shape_rotmai (rt ra : Reg) (i7 : BitVec 7) (s : State) : Shape (.rotmai rt ra i7) s (execRotmai rt ra i7 s) :=
  .write _ (.inl rfl) rfl
theorem shape_heq (ra rb : Reg) (s : State) : Shape (.heq ra rb) s (execHeq ra rb s) :=
  .of_haltIf _ rfl
theorem shape_heqi (ra : Reg) (i10 : BitVec 10) (s : State) : Shape (.heqi ra i10) s (execHeqi ra i10 s) :=
  .of_haltIf _ rfl
theorem shape_hgt (ra rb : Reg) (s : State) : Shape (.hgt ra rb) s (execHgt ra rb s) :=
  .of_haltIf _ rfl
theorem shape_hgti (ra : Reg) (i10 : BitVec 10) (s : State) : Shape (.hgti ra i10) s (execHgti ra i10 s) :=
  .of_haltIf _ rfl
theorem shape_hlgt (ra rb : Reg) (s : State) : Shape (.hlgt ra rb) s (execHlgt ra rb s) :=
  .of_haltIf _ rfl
theorem shape_hlgti (ra : Reg) (i10 : BitVec 10) (s : State) : Shape (.hlgti ra i10) s (execHlgti ra i10 s) :=
  .of_haltIf _ rfl
theorem shape_ceqb (rt ra rb : Reg) (s : State) : Shape (.ceqb rt ra rb) s (execCeqb rt ra rb s) :=
  .write _ (.inl rfl) rfl
theorem shape_ceqbi (rt ra : Reg) (i10 : BitVec 10) (s : State) :
    Shape (.ceqbi rt ra i10) s (execCeqbi rt ra i10 s) :=
  .write _ (.inl rfl) rfl
theorem shape_ceqh (rt ra rb : Reg) (s : State) : Shape (.ceqh rt ra rb) s (execCeqh rt ra rb s) :=
  .write _ (.inl rfl) rfl
theorem shape_ceqhi (rt ra : Reg) (i10 : BitVec 10) (s : State) :
    Shape (.ceqhi rt ra i10) s (execCeqhi rt ra i10 s) :=
  .write _ (.inl rfl) rfl
theorem shape_ceq (rt ra rb : Reg) (s : State) : Shape (.ceq rt ra rb) s (execCeq rt ra rb s) :=
  .write _ (.inl rfl) rfl
theorem shape_ceqi (rt ra : Reg) (i10 : BitVec 10) (s : State) : Shape (.ceqi rt ra i10) s (execCeqi rt ra i10 s) :=
  .write _ (.inl rfl) rfl
theorem shape_cgtb (rt ra rb : Reg) (s : State) : Shape (.cgtb rt ra rb) s (execCgtb rt ra rb s) :=
  .write _ (.inl rfl) rfl
theorem shape_cgtbi (rt ra : Reg) (i10 : BitVec 10) (s : State) :
    Shape (.cgtbi rt ra i10) s (execCgtbi rt ra i10 s) :=
  .write _ (.inl rfl) rfl
theorem shape_cgth (rt ra rb : Reg) (s : State) : Shape (.cgth rt ra rb) s (execCgth rt ra rb s) :=
  .write _ (.inl rfl) rfl
theorem shape_cgthi (rt ra : Reg) (i10 : BitVec 10) (s : State) :
    Shape (.cgthi rt ra i10) s (execCgthi rt ra i10 s) :=
  .write _ (.inl rfl) rfl
theorem shape_cgt (rt ra rb : Reg) (s : State) : Shape (.cgt rt ra rb) s (execCgt rt ra rb s) :=
  .write _ (.inl rfl) rfl
theorem shape_cgti (rt ra : Reg) (i10 : BitVec 10) (s : State) : Shape (.cgti rt ra i10) s (execCgti rt ra i10 s) :=
  .write _ (.inl rfl) rfl
theorem shape_clgtb (rt ra rb : Reg) (s : State) : Shape (.clgtb rt ra rb) s (execClgtb rt ra rb s) :=
  .write _ (.inl rfl) rfl
theorem shape_clgtbi (rt ra : Reg) (i10 : BitVec 10) (s : State) :
    Shape (.clgtbi rt ra i10) s (execClgtbi rt ra i10 s) :=
  .write _ (.inl rfl) rfl
theorem shape_clgth (rt ra rb : Reg) (s : State) : Shape (.clgth rt ra rb) s (execClgth rt ra rb s) :=
  .write _ (.inl rfl) rfl
theorem shape_clgthi (rt ra : Reg) (i10 : BitVec 10) (s : State) :
    Shape (.clgthi rt ra i10) s (execClgthi rt ra i10 s) :=
  .write _ (.inl rfl) rfl
theorem shape_clgt (rt ra rb : Reg) (s : State) : Shape (.clgt rt ra rb) s (execClgt rt ra rb s) :=
  .write _ (.inl rfl) rfl
theorem shape_clgti (rt ra : Reg) (i10 : BitVec 10) (s : State) :
    Shape (.clgti rt ra i10) s (execClgti rt ra i10 s) :=
  .write _ (.inl rfl) rfl
theorem shape_br (i16 : BitVec 16) (s : State) : Shape (.br i16) s (execBr i16 s) :=
  .of_branchIf _ (.inl rfl) (pcOk_relTarget _ _) rfl
theorem shape_bra (i16 : BitVec 16) (s : State) : Shape (.bra i16) s (execBra i16 s) :=
  .of_branchIf _ (.inl rfl) (pcOk_absTarget _ _) rfl
theorem shape_brsl (rt : Reg) (i16 : BitVec 16) (s : State) : Shape (.brsl rt i16) s (execBrsl rt i16 s) :=
  .of_branchIf _ (.inr ⟨_, _, rfl, rfl⟩) (pcOk_relTarget _ _) rfl
theorem shape_brasl (rt : Reg) (i16 : BitVec 16) (s : State) : Shape (.brasl rt i16) s (execBrasl rt i16 s) :=
  .of_branchIf _ (.inr ⟨_, _, rfl, rfl⟩) (pcOk_absTarget _ _) rfl
theorem shape_bi (ra : Reg) (d e : Bool) (s : State) : Shape (.bi ra d e) s (execBi ra d e s) :=
  .of_branchIndirect _ (.inl rfl) rfl rfl
theorem shape_iret (_ra : Reg) (d e : Bool) (s : State) : Shape (.iret _ra d e) s (execIret _ra d e s) :=
  .of_branchIndirect _ (by unfold State.sawSrr0; split <;> simp) rfl rfl
theorem shape_bisled (rt ra : Reg) (d e : Bool) (s : State) : Shape (.bisled rt ra d e) s (execBisled rt ra d e s) :=
  .of_branchIndirectIf _ _ (.inr ⟨_, _, rfl, rfl⟩) rfl rfl
theorem shape_bisl (rt ra : Reg) (d e : Bool) (s : State) : Shape (.bisl rt ra d e) s (execBisl rt ra d e s) :=
  .of_branchIndirect _ (.inr (.inr ⟨_, _, rfl, rfl⟩)) rfl rfl
theorem shape_brnz (rt : Reg) (i16 : BitVec 16) (s : State) : Shape (.brnz rt i16) s (execBrnz rt i16 s) :=
  .of_branchIf _ (.inl rfl) (pcOk_relTarget _ _) rfl
theorem shape_brz (rt : Reg) (i16 : BitVec 16) (s : State) : Shape (.brz rt i16) s (execBrz rt i16 s) :=
  .of_branchIf _ (.inl rfl) (pcOk_relTarget _ _) rfl
theorem shape_brhnz (rt : Reg) (i16 : BitVec 16) (s : State) : Shape (.brhnz rt i16) s (execBrhnz rt i16 s) :=
  .of_branchIf _ (.inl rfl) (pcOk_relTarget _ _) rfl
theorem shape_brhz (rt : Reg) (i16 : BitVec 16) (s : State) : Shape (.brhz rt i16) s (execBrhz rt i16 s) :=
  .of_branchIf _ (.inl rfl) (pcOk_relTarget _ _) rfl
theorem shape_biz (rt ra : Reg) (d e : Bool) (s : State) : Shape (.biz rt ra d e) s (execBiz rt ra d e s) :=
  .of_branchIndirectIf _ _ (.inl rfl) rfl rfl
theorem shape_binz (rt ra : Reg) (d e : Bool) (s : State) : Shape (.binz rt ra d e) s (execBinz rt ra d e s) :=
  .of_branchIndirectIf _ _ (.inl rfl) rfl rfl
theorem shape_bihz (rt ra : Reg) (d e : Bool) (s : State) : Shape (.bihz rt ra d e) s (execBihz rt ra d e s) :=
  .of_branchIndirectIf _ _ (.inl rfl) rfl rfl
theorem shape_bihnz (rt ra : Reg) (d e : Bool) (s : State) : Shape (.bihnz rt ra d e) s (execBihnz rt ra d e s) :=
  .of_branchIndirectIf _ _ (.inl rfl) rfl rfl
theorem shape_hbr (_roh : BitVec 2) (_rol : BitVec 7) (_ra : Reg) (_p : Bool) (s : State) :
    Shape (.hbr _roh _rol _ra _p) s (execHbr _roh _rol _ra _p s) :=
  .of_advance
theorem shape_hbra (_roh : BitVec 2) (_rol : BitVec 7) (_i16 : BitVec 16) (s : State) :
    Shape (.hbra _roh _rol _i16) s (execHbra _roh _rol _i16 s) :=
  .of_advance
theorem shape_hbrr (_roh : BitVec 2) (_rol : BitVec 7) (_i16 : BitVec 16) (s : State) :
    Shape (.hbrr _roh _rol _i16) s (execHbrr _roh _rol _i16 s) :=
  .of_advance
theorem shape_fa (rt ra rb : Reg) (s : State) : Shape (.fa rt ra rb) s (execFa rt ra rb s) :=
  .of_singleArith _ _ _ _ rfl rfl
theorem shape_dfa (rt ra rb : Reg) (s : State) : Shape (.dfa rt ra rb) s (execDfa rt ra rb s) :=
  .of_doubleArith _ _ _ _ _ rfl rfl
theorem shape_fs (rt ra rb : Reg) (s : State) : Shape (.fs rt ra rb) s (execFs rt ra rb s) :=
  .of_singleArith _ _ _ _ rfl rfl
theorem shape_dfs (rt ra rb : Reg) (s : State) : Shape (.dfs rt ra rb) s (execDfs rt ra rb s) :=
  .of_doubleArith _ _ _ _ _ rfl rfl
theorem shape_fm (rt ra rb : Reg) (s : State) : Shape (.fm rt ra rb) s (execFm rt ra rb s) :=
  .of_singleArith _ _ _ _ rfl rfl
theorem shape_dfm (rt ra rb : Reg) (s : State) : Shape (.dfm rt ra rb) s (execDfm rt ra rb s) :=
  .of_doubleArith _ _ _ _ _ rfl rfl
theorem shape_fma (rt ra rb rc : Reg) (s : State) : Shape (.fma rt ra rb rc) s (execFma rt ra rb rc s) :=
  .of_singleArith _ _ _ _ rfl rfl
theorem shape_dfma (rt ra rb : Reg) (s : State) : Shape (.dfma rt ra rb) s (execDfma rt ra rb s) :=
  .of_doubleArith _ _ _ _ _ rfl rfl
theorem shape_fnms (rt ra rb rc : Reg) (s : State) : Shape (.fnms rt ra rb rc) s (execFnms rt ra rb rc s) :=
  .of_singleArith _ _ _ _ rfl rfl
theorem shape_dfnms (rt ra rb : Reg) (s : State) : Shape (.dfnms rt ra rb) s (execDfnms rt ra rb s) :=
  .of_doubleArith _ _ _ _ _ rfl rfl
theorem shape_fms (rt ra rb rc : Reg) (s : State) : Shape (.fms rt ra rb rc) s (execFms rt ra rb rc s) :=
  .of_singleArith _ _ _ _ rfl rfl
theorem shape_dfms (rt ra rb : Reg) (s : State) : Shape (.dfms rt ra rb) s (execDfms rt ra rb s) :=
  .of_doubleArith _ _ _ _ _ rfl rfl
theorem shape_dfnma (rt ra rb : Reg) (s : State) : Shape (.dfnma rt ra rb) s (execDfnma rt ra rb s) :=
  .of_doubleArith _ _ _ _ _ rfl rfl
theorem shape_frest (rt ra : Reg) (s : State) : Shape (.frest rt ra) s (execFrest rt ra s) :=
  .of_estimate _ _ rfl rfl
theorem shape_frsqest (rt ra : Reg) (s : State) : Shape (.frsqest rt ra) s (execFrsqest rt ra s) :=
  .of_estimate _ _ rfl rfl
theorem shape_fi (rt ra rb : Reg) (s : State) : Shape (.fi rt ra rb) s (execFi rt ra rb s) :=
  .of_singleArith _ _ _ _ rfl rfl
theorem shape_csflt (rt ra : Reg) (i8 : BitVec 8) (s : State) : Shape (.csflt rt ra i8) s (execCsflt rt ra i8 s) :=
  .of_convertFromInt _ _ _ rfl rfl
theorem shape_cflts (rt ra : Reg) (i8 : BitVec 8) (s : State) : Shape (.cflts rt ra i8) s (execCflts rt ra i8 s) :=
  .of_convertToInt _ _ _ rfl rfl
theorem shape_cuflt (rt ra : Reg) (i8 : BitVec 8) (s : State) : Shape (.cuflt rt ra i8) s (execCuflt rt ra i8 s) :=
  .of_convertFromInt _ _ _ rfl rfl
theorem shape_cfltu (rt ra : Reg) (i8 : BitVec 8) (s : State) : Shape (.cfltu rt ra i8) s (execCfltu rt ra i8 s) :=
  .of_convertToInt _ _ _ rfl rfl
theorem shape_frds (rt ra : Reg) (s : State) : Shape (.frds rt ra) s (execFrds rt ra s) :=
  .writeFlags _ _ (.inl rfl) rfl (doubleFlagQuad_mask _)
theorem shape_fesd (rt ra : Reg) (s : State) : Shape (.fesd rt ra) s (execFesd rt ra s) :=
  .writeFlags _ _ (.inl rfl) rfl (doubleFlagQuad_sub (m := extendFlagMask) (w := 0x700#32) (by decide) _
    fun _ => extendToDouble_bits _ _)
theorem shape_dfceq (rt ra rb : Reg) (s : State) : Shape (.dfceq rt ra rb) s (execDfceq rt ra rb s) :=
  .of_ifDpCompare (.of_doubleCompare _ _ _ rfl rfl)
theorem shape_dfcmeq (rt ra rb : Reg) (s : State) : Shape (.dfcmeq rt ra rb) s (execDfcmeq rt ra rb s) :=
  .of_ifDpCompare (.of_doubleCompare _ _ _ rfl rfl)
theorem shape_dfcgt (rt ra rb : Reg) (s : State) : Shape (.dfcgt rt ra rb) s (execDfcgt rt ra rb s) :=
  .of_ifDpCompare (.of_doubleCompare _ _ _ rfl rfl)
theorem shape_dfcmgt (rt ra rb : Reg) (s : State) : Shape (.dfcmgt rt ra rb) s (execDfcmgt rt ra rb s) :=
  .of_ifDpCompare (.of_doubleCompare _ _ _ rfl rfl)
theorem shape_dftsv (rt ra : Reg) (i7 : BitVec 7) (s : State) : Shape (.dftsv rt ra i7) s (execDftsv rt ra i7 s) :=
  .of_ifDpCompare (.write _ (.inl rfl) rfl)
theorem shape_fceq (rt ra rb : Reg) (s : State) : Shape (.fceq rt ra rb) s (execFceq rt ra rb s) :=
  .write _ (.inl rfl) rfl
theorem shape_fcmeq (rt ra rb : Reg) (s : State) : Shape (.fcmeq rt ra rb) s (execFcmeq rt ra rb s) :=
  .write _ (.inl rfl) rfl
theorem shape_fcgt (rt ra rb : Reg) (s : State) : Shape (.fcgt rt ra rb) s (execFcgt rt ra rb s) :=
  .write _ (.inl rfl) rfl
theorem shape_fcmgt (rt ra rb : Reg) (s : State) : Shape (.fcmgt rt ra rb) s (execFcmgt rt ra rb s) :=
  .write _ (.inl rfl) rfl
theorem shape_fscrwr (ra _rt : Reg) (s : State) : Shape (.fscrwr ra _rt) s (execFscrwr ra _rt s) :=
  .setFpscr _ ⟨_, _, rfl⟩
theorem shape_fscrrd (rt : Reg) (s : State) : Shape (.fscrrd rt) s (execFscrrd rt s) :=
  .write _ (.inl rfl) rfl
theorem shape_stop (sig : BitVec 14) (s : State) : Shape (.stop sig) s (execStop sig s) :=
  .stop (b := s.advance) _ (.inr rfl)
theorem shape_stopd (_rt _ra _rb : Reg) (s : State) : Shape (.stopd _rt _ra _rb) s (execStopd _rt _ra _rb s) :=
  .stop (b := s.advance) _ (.inr rfl)
theorem shape_lnop (s : State) : Shape .lnop s (execLnop s) :=
  .of_advance
theorem shape_nop (_rt : Reg) (s : State) : Shape (.nop _rt) s (execNop _rt s) :=
  .of_advance
theorem shape_sync (c : Bool) (s : State) : Shape (.sync c) s (execSync c s) := by
  cases c
  · exact .sync (b := s.fetchSync) (.inr (.inl rfl))
  · exact .sync (b := s.syncC) (.inl rfl)
theorem shape_dsync (s : State) : Shape .dsync s (execDsync s) :=
  .sync (b := s.dataSync) (.inr (.inr rfl))
theorem shape_mfspr (rt : Reg) (sa : BitVec 7) (s : State) : Shape (.mfspr rt sa) s (execMfspr rt sa s) :=
  .write _ (.inl rfl) rfl
theorem shape_mtspr (sa : BitVec 7) (rt : Reg) (s : State) : Shape (.mtspr sa rt) s (execMtspr sa rt s) :=
  .setSpr _ _
theorem shape_rdch (rt : Reg) (ca : BitVec 7) (s : State) : Shape (.rdch rt ca) s (execRdch rt ca s) :=
  .readChannel _ rfl rfl
theorem shape_rchcnt (rt : Reg) (ca : BitVec 7) (s : State) : Shape (.rchcnt rt ca) s (execRchcnt rt ca s) :=
  .write _ (.inl rfl) rfl
theorem shape_wrch (ca : BitVec 7) (rt : Reg) (s : State) : Shape (.wrch ca rt) s (execWrch ca rt s) :=
  .writeChannel _ _ rfl

/-- What any instruction can answer. -/
theorem exec_shape (i : Instr) (s : State) : Shape i s (exec i s) := by
  cases i with
  | lqd _ _ _ => exact shape_lqd ..
  | lqx _ _ _ => exact shape_lqx ..
  | lqa _ _ => exact shape_lqa ..
  | lqr _ _ => exact shape_lqr ..
  | stqd _ _ _ => exact shape_stqd ..
  | stqx _ _ _ => exact shape_stqx ..
  | stqa _ _ => exact shape_stqa ..
  | stqr _ _ => exact shape_stqr ..
  | cbd _ _ _ => exact shape_cbd ..
  | cbx _ _ _ => exact shape_cbx ..
  | chd _ _ _ => exact shape_chd ..
  | chx _ _ _ => exact shape_chx ..
  | cwd _ _ _ => exact shape_cwd ..
  | cwx _ _ _ => exact shape_cwx ..
  | cdd _ _ _ => exact shape_cdd ..
  | cdx _ _ _ => exact shape_cdx ..
  | ilh _ _ => exact shape_ilh ..
  | ilhu _ _ => exact shape_ilhu ..
  | il _ _ => exact shape_il ..
  | ila _ _ => exact shape_ila ..
  | iohl _ _ => exact shape_iohl ..
  | fsmbi _ _ => exact shape_fsmbi ..
  | ah _ _ _ => exact shape_ah ..
  | ahi _ _ _ => exact shape_ahi ..
  | a _ _ _ => exact shape_a ..
  | ai _ _ _ => exact shape_ai ..
  | sfh _ _ _ => exact shape_sfh ..
  | sfhi _ _ _ => exact shape_sfhi ..
  | sf _ _ _ => exact shape_sf ..
  | sfi _ _ _ => exact shape_sfi ..
  | addx _ _ _ => exact shape_addx ..
  | cg _ _ _ => exact shape_cg ..
  | cgx _ _ _ => exact shape_cgx ..
  | sfx _ _ _ => exact shape_sfx ..
  | bg _ _ _ => exact shape_bg ..
  | bgx _ _ _ => exact shape_bgx ..
  | mpy _ _ _ => exact shape_mpy ..
  | mpyu _ _ _ => exact shape_mpyu ..
  | mpyi _ _ _ => exact shape_mpyi ..
  | mpyui _ _ _ => exact shape_mpyui ..
  | mpya _ _ _ _ => exact shape_mpya ..
  | mpyh _ _ _ => exact shape_mpyh ..
  | mpys _ _ _ => exact shape_mpys ..
  | mpyhh _ _ _ => exact shape_mpyhh ..
  | mpyhha _ _ _ => exact shape_mpyhha ..
  | mpyhhu _ _ _ => exact shape_mpyhhu ..
  | mpyhhau _ _ _ => exact shape_mpyhhau ..
  | clz _ _ => exact shape_clz ..
  | cntb _ _ => exact shape_cntb ..
  | fsmb _ _ => exact shape_fsmb ..
  | fsmh _ _ => exact shape_fsmh ..
  | fsm _ _ => exact shape_fsm ..
  | gbb _ _ => exact shape_gbb ..
  | gbh _ _ => exact shape_gbh ..
  | gb _ _ => exact shape_gb ..
  | avgb _ _ _ => exact shape_avgb ..
  | absdb _ _ _ => exact shape_absdb ..
  | sumb _ _ _ => exact shape_sumb ..
  | xsbh _ _ => exact shape_xsbh ..
  | xshw _ _ => exact shape_xshw ..
  | xswd _ _ => exact shape_xswd ..
  | and _ _ _ => exact shape_and ..
  | andc _ _ _ => exact shape_andc ..
  | andbi _ _ _ => exact shape_andbi ..
  | andhi _ _ _ => exact shape_andhi ..
  | andi _ _ _ => exact shape_andi ..
  | or _ _ _ => exact shape_or ..
  | orc _ _ _ => exact shape_orc ..
  | orbi _ _ _ => exact shape_orbi ..
  | orhi _ _ _ => exact shape_orhi ..
  | ori _ _ _ => exact shape_ori ..
  | orx _ _ => exact shape_orx ..
  | xor _ _ _ => exact shape_xor ..
  | xorbi _ _ _ => exact shape_xorbi ..
  | xorhi _ _ _ => exact shape_xorhi ..
  | xori _ _ _ => exact shape_xori ..
  | nand _ _ _ => exact shape_nand ..
  | nor _ _ _ => exact shape_nor ..
  | eqv _ _ _ => exact shape_eqv ..
  | selb _ _ _ _ => exact shape_selb ..
  | shufb _ _ _ _ => exact shape_shufb ..
  | shlh _ _ _ => exact shape_shlh ..
  | shlhi _ _ _ => exact shape_shlhi ..
  | shl _ _ _ => exact shape_shl ..
  | shli _ _ _ => exact shape_shli ..
  | shlqbi _ _ _ => exact shape_shlqbi ..
  | shlqbii _ _ _ => exact shape_shlqbii ..
  | shlqby _ _ _ => exact shape_shlqby ..
  | shlqbyi _ _ _ => exact shape_shlqbyi ..
  | shlqbybi _ _ _ => exact shape_shlqbybi ..
  | roth _ _ _ => exact shape_roth ..
  | rothi _ _ _ => exact shape_rothi ..
  | rot _ _ _ => exact shape_rot ..
  | roti _ _ _ => exact shape_roti ..
  | rotqby _ _ _ => exact shape_rotqby ..
  | rotqbyi _ _ _ => exact shape_rotqbyi ..
  | rotqbybi _ _ _ => exact shape_rotqbybi ..
  | rotqbi _ _ _ => exact shape_rotqbi ..
  | rotqbii _ _ _ => exact shape_rotqbii ..
  | rothm _ _ _ => exact shape_rothm ..
  | rothmi _ _ _ => exact shape_rothmi ..
  | rotm _ _ _ => exact shape_rotm ..
  | rotmi _ _ _ => exact shape_rotmi ..
  | rotqmby _ _ _ => exact shape_rotqmby ..
  | rotqmbyi _ _ _ => exact shape_rotqmbyi ..
  | rotqmbybi _ _ _ => exact shape_rotqmbybi ..
  | rotqmbi _ _ _ => exact shape_rotqmbi ..
  | rotqmbii _ _ _ => exact shape_rotqmbii ..
  | rotmah _ _ _ => exact shape_rotmah ..
  | rotmahi _ _ _ => exact shape_rotmahi ..
  | rotma _ _ _ => exact shape_rotma ..
  | rotmai _ _ _ => exact shape_rotmai ..
  | heq _ _ => exact shape_heq ..
  | heqi _ _ => exact shape_heqi ..
  | hgt _ _ => exact shape_hgt ..
  | hgti _ _ => exact shape_hgti ..
  | hlgt _ _ => exact shape_hlgt ..
  | hlgti _ _ => exact shape_hlgti ..
  | ceqb _ _ _ => exact shape_ceqb ..
  | ceqbi _ _ _ => exact shape_ceqbi ..
  | ceqh _ _ _ => exact shape_ceqh ..
  | ceqhi _ _ _ => exact shape_ceqhi ..
  | ceq _ _ _ => exact shape_ceq ..
  | ceqi _ _ _ => exact shape_ceqi ..
  | cgtb _ _ _ => exact shape_cgtb ..
  | cgtbi _ _ _ => exact shape_cgtbi ..
  | cgth _ _ _ => exact shape_cgth ..
  | cgthi _ _ _ => exact shape_cgthi ..
  | cgt _ _ _ => exact shape_cgt ..
  | cgti _ _ _ => exact shape_cgti ..
  | clgtb _ _ _ => exact shape_clgtb ..
  | clgtbi _ _ _ => exact shape_clgtbi ..
  | clgth _ _ _ => exact shape_clgth ..
  | clgthi _ _ _ => exact shape_clgthi ..
  | clgt _ _ _ => exact shape_clgt ..
  | clgti _ _ _ => exact shape_clgti ..
  | br _ => exact shape_br ..
  | bra _ => exact shape_bra ..
  | brsl _ _ => exact shape_brsl ..
  | brasl _ _ => exact shape_brasl ..
  | bi _ _ _ => exact shape_bi ..
  | iret _ _ _ => exact shape_iret ..
  | bisled _ _ _ _ => exact shape_bisled ..
  | bisl _ _ _ _ => exact shape_bisl ..
  | brnz _ _ => exact shape_brnz ..
  | brz _ _ => exact shape_brz ..
  | brhnz _ _ => exact shape_brhnz ..
  | brhz _ _ => exact shape_brhz ..
  | biz _ _ _ _ => exact shape_biz ..
  | binz _ _ _ _ => exact shape_binz ..
  | bihz _ _ _ _ => exact shape_bihz ..
  | bihnz _ _ _ _ => exact shape_bihnz ..
  | hbr _ _ _ _ => exact shape_hbr ..
  | hbra _ _ _ => exact shape_hbra ..
  | hbrr _ _ _ => exact shape_hbrr ..
  | fa _ _ _ => exact shape_fa ..
  | dfa _ _ _ => exact shape_dfa ..
  | fs _ _ _ => exact shape_fs ..
  | dfs _ _ _ => exact shape_dfs ..
  | fm _ _ _ => exact shape_fm ..
  | dfm _ _ _ => exact shape_dfm ..
  | fma _ _ _ _ => exact shape_fma ..
  | dfma _ _ _ => exact shape_dfma ..
  | fnms _ _ _ _ => exact shape_fnms ..
  | dfnms _ _ _ => exact shape_dfnms ..
  | fms _ _ _ _ => exact shape_fms ..
  | dfms _ _ _ => exact shape_dfms ..
  | dfnma _ _ _ => exact shape_dfnma ..
  | frest _ _ => exact shape_frest ..
  | frsqest _ _ => exact shape_frsqest ..
  | fi _ _ _ => exact shape_fi ..
  | csflt _ _ _ => exact shape_csflt ..
  | cflts _ _ _ => exact shape_cflts ..
  | cuflt _ _ _ => exact shape_cuflt ..
  | cfltu _ _ _ => exact shape_cfltu ..
  | frds _ _ => exact shape_frds ..
  | fesd _ _ => exact shape_fesd ..
  | dfceq _ _ _ => exact shape_dfceq ..
  | dfcmeq _ _ _ => exact shape_dfcmeq ..
  | dfcgt _ _ _ => exact shape_dfcgt ..
  | dfcmgt _ _ _ => exact shape_dfcmgt ..
  | dftsv _ _ _ => exact shape_dftsv ..
  | fceq _ _ _ => exact shape_fceq ..
  | fcmeq _ _ _ => exact shape_fcmeq ..
  | fcgt _ _ _ => exact shape_fcgt ..
  | fcmgt _ _ _ => exact shape_fcmgt ..
  | fscrwr _ _ => exact shape_fscrwr ..
  | fscrrd _ => exact shape_fscrrd ..
  | stop _ => exact shape_stop ..
  | stopd _ _ _ => exact shape_stopd ..
  | lnop => exact shape_lnop ..
  | nop _ => exact shape_nop ..
  | sync _ => exact shape_sync ..
  | dsync => exact shape_dsync ..
  | mfspr _ _ => exact shape_mfspr ..
  | mtspr _ _ => exact shape_mtspr ..
  | rdch _ _ => exact shape_rdch ..
  | rchcnt _ _ => exact shape_rchcnt ..
  | wrch _ _ => exact shape_wrch ..

end Sys2Proof.Machine
end

