-- ==== Sys2Proof/Laws/Inv.lean ====
section
/-!
SUPPORT. The invariant of Safety.lean under each shared operation.
-/

set_option Elab.async false

namespace Sys2Proof.Machine

/-- The invariant reads eight fields. -/
theorem State.Inv.congr {s t : State} (h : s.Inv) (ls : t.ls = s.ls) (lslr : t.lslr = s.lslr) (pc : t.pc = s.pc)
    (fpscr : t.fpscr = s.fpscr) (wait : t.wait = s.wait) (run : t.run = s.run) (chan : t.chan = s.chan)
    (cfg : t.cfg = s.cfg) : t.Inv := by
  refine ⟨?_, ?_, ?_, ?_, ?_, ?_, ?_, ?_⟩
  · rw [ls]; exact h.memory
  · rw [ls, cfg]; exact h.inside
  · rw [lslr, cfg]; exact h.lslr
  · rw [pc]; exact h.pcAligned
  · rw [pc, lslr]; exact h.pcInside
  · rw [fpscr]; exact h.fpscr
  · rw [wait, run]; exact h.wait
  · rw [chan]; exact h.channels

theorem State.Inv.setReg {s : State} (h : s.Inv) (r : Reg) (v : Quad) : (s.setReg r v).Inv :=
  h.congr rfl rfl rfl rfl rfl rfl rfl rfl

theorem State.Inv.takeFree {s : State} (h : s.Inv) : s.takeFree.Inv := h.congr rfl rfl rfl rfl rfl rfl rfl rfl

theorem State.Inv.sawSrr0 {s : State} (h : s.Inv) : s.sawSrr0.Inv := by
  unfold State.sawSrr0
  split
  · exact h
  · exact h.takeFree

theorem State.Inv.dataSync {s : State} (h : s.Inv) : s.dataSync.Inv := h.congr rfl rfl rfl rfl rfl rfl rfl rfl
theorem State.Inv.fetchSync {s : State} (h : s.Inv) : s.fetchSync.Inv := h.congr rfl rfl rfl rfl rfl rfl rfl rfl
theorem State.Inv.syncC {s : State} (h : s.Inv) : s.syncC.Inv := by
  refine h.congr ?_ ?_ ?_ ?_ ?_ ?_ ?_ ?_ <;> simp

theorem State.Inv.writeSpr {s : State} (h : s.Inv) (sa : BitVec 7) (v : Quad) : (s.writeSpr sa v).Inv := by
  refine h.congr ?_ ?_ ?_ ?_ ?_ ?_ ?_ ?_ <;> simp

theorem State.Inv.dropTurn {s : State} (h : s.Inv) : s.dropTurn.Inv := h.congr rfl rfl rfl rfl rfl rfl rfl rfl

/-- A next address that the instruction can produce. -/
theorem State.Inv.setPc {s : State} (h : s.Inv) {pc : Word} (hp : PcOk s pc) : { s with pc := pc }.Inv :=
  ⟨h.memory, h.inside, h.lslr, hp.2 h.pcAligned, hp.1, h.fpscr, h.wait, h.channels⟩

theorem State.Inv.advance {s : State} (h : s.Inv) : s.advance.Inv := h.setPc (pcOk_nextPc s)

theorem State.Inv.channelDone {s : State} (h : s.Inv) : s.channelDone.Inv :=
  ⟨h.memory, h.inside, h.lslr, (pcOk_nextPc s).2 h.pcAligned, (pcOk_nextPc s).1, h.fpscr, fun e => absurd rfl e,
    h.channels⟩

theorem State.Inv.setIe {s : State} (h : s.Inv) (ie : Bool) : { s with ie := ie }.Inv :=
  h.congr rfl rfl rfl rfl rfl rfl rfl rfl

theorem State.Inv.stopWith {s : State} (h : s.Inv) (ev : StopEvent) : (s.stopWith ev).Inv := by
  have hs := h.syncC
  exact ⟨hs.memory, hs.inside, hs.lslr, hs.pcAligned, hs.pcInside, hs.fpscr, fun e => absurd rfl e, hs.channels⟩

theorem State.Inv.block {s : State} (h : s.Inv) (w : ChannelWait) (hr : s.run = .running) : (s.block w).Inv :=
  ⟨h.memory, h.inside, h.lslr, h.pcAligned, h.pcInside, h.fpscr, fun _ => hr, h.channels⟩

/-- Flags an instruction may set are defined bits. -/
theorem State.Inv.addFlags {s : State} (h : s.Inv) (flags : Quad) (hf : flags &&& ~~~fpscrMask = 0#128) :
    (s.addFlags flags).Inv := by
  refine ⟨h.memory, h.inside, h.lslr, h.pcAligned, h.pcInside, ?_, h.wait, h.channels⟩
  have e : (s.fpscr ||| flags) &&& ~~~fpscrMask = (s.fpscr &&& ~~~fpscrMask) ||| (flags &&& ~~~fpscrMask) := by
    refine BitVec.eq_of_getLsbD_eq fun k _ => ?_
    simp only [BitVec.getLsbD_and, BitVec.getLsbD_or]
    cases s.fpscr.getLsbD k <;> cases flags.getLsbD k <;> simp
  rw [State.addFlags, e, h.fpscr, hf]
  rfl

theorem and_not_trans {v m n : Quad} (h : v &&& ~~~m = 0#128) (hm : m &&& ~~~n = 0#128) : v &&& ~~~n = 0#128 := by
  refine BitVec.eq_of_getLsbD_eq fun k hk => ?_
  have h1 := congrArg (·.getLsbD k) h
  have h2 := congrArg (·.getLsbD k) hm
  simp only [BitVec.getLsbD_and, BitVec.getLsbD_not, hk, BitVec.getLsbD_zero] at h1 h2 ⊢
  cases hv : v.getLsbD k <;> cases hm' : m.getLsbD k <;> cases hn : n.getLsbD k <;> simp_all

/-- The flags of the tables are defined bits of FPSCR. -/
theorem flagMask_fpscrMask (i : Instr) : i.flagMask &&& ~~~fpscrMask = 0#128 := by
  unfold Instr.flagMask
  split <;> first | decide | (split <;> decide)

theorem lsa_inside (lslr ea : Word) (n size : ℕ) (hn : 4 ≤ n) (hl : lslr.toNat = 2 ^ n - 1) (hs : 2 ^ n ≤ size) :
    (lsa lslr ea).toNat + 16 ≤ size := by
  have h1 : (lsa lslr ea).toNat ≤ lslr.toNat := by
    rw [lsa, BitVec.toNat_and, BitVec.toNat_and]
    exact (Nat.and_le_left).trans Nat.and_le_right
  have h2 : (lsa lslr ea).toNat % 16 = 0 := by
    have e : lsa lslr ea &&& 15#32 = 0#32 := by
      rw [lsa, BitVec.and_assoc]
      simp
    have := congrArg BitVec.toNat e
    rw [BitVec.toNat_and] at this
    exact (Nat.and_two_pow_sub_one_eq_mod _ 4).symm.trans this
  obtain ⟨k, rfl⟩ : ∃ k, n = k + 4 := ⟨n - 4, by omega⟩
  rw [pow_add] at hl hs
  have := Nat.one_le_two_pow (n := k)
  omega

/-- A write in a quadword of the real local storage that keeps the canonical form. -/
theorem State.Inv.performWrite {s : State} (h : s.Inv) (w : Writer) (a : ℕ) (m : Memory) (hm : m.wf = true)
    (hin : ∀ c ∈ m, (a ≤ c.1 ∧ c.1 < a + 16) ∨ c ∈ s.ls) (ha : a + 16 ≤ s.cfg.lsRealSize) :
    (s.performWrite w a m).Inv := by
  refine ⟨hm, ?_, h.lslr, h.pcAligned, h.pcInside, h.fpscr, h.wait, h.channels⟩
  intro c hc
  rcases hin c hc with h1 | h1
  · have : (s.performWrite w a m).cfg = s.cfg := rfl
    rw [this]
    omega
  · exact h.inside c h1

theorem State.Inv.store {s : State} (h : s.Inv) (ea : Word) (v : Quad) : (s.store ea v).Inv := by
  obtain ⟨n, h4, -, hl, hs⟩ := h.lslr
  exact h.performWrite _ _ _ (Memory.wf_writeQuad _ _ _ h.memory) (Memory.mem_writeQuad _ _ _)
    (lsa_inside _ _ n _ h4 hl hs)

theorem State.Inv.setFpscr {s : State} (h : s.Inv) (v : Quad) : { s with fpscr := v &&& fpscrMask }.Inv :=
  ⟨h.memory, h.inside, h.lslr, h.pcAligned, h.pcInside, by rw [BitVec.and_assoc]; simp, h.wait, h.channels⟩

theorem State.Inv.setChan {s : State} (h : s.Inv) (ca : BitVec 7) (c : Channel) (hc : c.ok) :
    { s with chan := s.chan.set ca.toNat (some c) }.Inv := by
  refine ⟨h.memory, h.inside, h.lslr, h.pcAligned, h.pcInside, h.fpscr, h.wait, ?_⟩
  intro r d hd
  by_cases e : ca.toNat = r.toNat
  · simp only [Vector.getElem_set, e, if_true, Option.some.injEq] at hd
    exact hd ▸ hc
  · simp only [Vector.getElem_set, e, if_false] at hd
    exact h.channels r d hd

theorem State.Inv.readChannel {s : State} (h : s.Inv) (rt : Reg) (ca : BitVec 7) (hr : s.run = .running) :
    (s.readChannel rt ca).Inv := by
  rcases s.readChannel_cases rt ca with ⟨-, e⟩ | ⟨-, e⟩ | ⟨c, n, d, ds, -, -, hc, hd, hn, hq, e⟩ | ⟨c, -, -, -, -, -, e⟩ <;>
    rw [e]
  · exact (h.sawSrr0.setReg _ _).channelDone
  · exact h.stopWith _
  · have hok := h.channels ca c hc
    simp only [Channel.ok, hd, hq, List.length_cons] at hok
    refine ((h.setChan ca _ ?_).setReg _ _).channelDone
    exact ⟨by simp only [hd]; omega, fun x hx => hok.2 x (List.mem_cons_of_mem _ hx)⟩
  · exact h.block _ hr

theorem State.Inv.writeChannel {s : State} (h : s.Inv) (ca : BitVec 7) (rt : Reg) (hr : s.run = .running) :
    (s.writeChannel ca rt).Inv := by
  rcases s.writeChannel_cases ca rt with ⟨-, e⟩ | ⟨-, e⟩ | ⟨c, n, -, -, hc, hd, hn, e⟩ | ⟨c, -, -, -, -, -, e⟩ <;> rw [e]
  · have h' : { s with srr0Pending := some (pref (s.reg rt)) }.Inv := h.congr rfl rfl rfl rfl rfl rfl rfl rfl
    exact h'.channelDone
  · exact h.stopWith _
  · have hok := h.channels ca c hc
    simp only [Channel.ok, hd] at hok
    refine (h.setChan ca _ ?_).channelDone
    refine ⟨by simp only [hd, List.length_append, List.length_singleton]; omega, fun x hx => ?_⟩
    rcases List.mem_append.mp hx with hx | hx
    · exact hok.2 x hx
    · rw [List.mem_singleton.mp hx]
      exact c.width.narrow_narrow _
  · exact h.block _ hr

theorem State.Inv.supply {s t : State} (h : s.Inv) (ca : BitVec 7) (v : Quad) (ht : s.supply ca v = some t) : t.Inv := by
  unfold State.supply at ht
  match hc : s.chan[ca.toNat], ht with
  | some c, ht =>
    have hok := h.channels ca c hc
    obtain ⟨dir, width, capacity, count, queue⟩ := c
    match dir, ht with
    | .read, ht =>
      simp only [Channel.ok] at hok ht
      split at ht
      · cases ht
        refine h.setChan ca _ ⟨by simp; omega, fun x hx => ?_⟩
        rcases List.mem_append.mp hx with hx | hx
        · exact hok.2 x hx
        · rw [List.mem_singleton.mp hx]
          exact width.narrow_narrow _
      · cases ht

theorem State.Inv.drain {s t : State} (h : s.Inv) (ca : BitVec 7) (ht : s.drain ca = some t) : t.Inv := by
  unfold State.drain at ht
  match hc : s.chan[ca.toNat], ht with
  | some c, ht =>
    have hok := h.channels ca c hc
    obtain ⟨dir, width, capacity, count, queue⟩ := c
    match dir, queue, ht with
    | .write, _ :: ds, ht =>
      simp only [Channel.ok, List.length_cons] at hok
      cases ht
      exact h.setChan ca _ ⟨by simp only; omega, fun x hx => hok.2 x (List.mem_cons_of_mem _ hx)⟩

theorem State.Inv.takeInterrupt {s : State} (h : s.Inv) : s.takeInterrupt.Inv := by
  unfold State.takeInterrupt
  split <;> exact ⟨h.memory, h.inside, h.lslr, by simp, by simp, h.fpscr, h.wait, h.channels⟩

/- What the devices do. -/

theorem legalLslr_spec (cfg : Config) (v : Word) (h : legalLslr cfg v = true) : ∃ n, 4 ≤ n ∧ n ≤ 32 ∧ v.toNat = 2^n - 1 ∧ 2^n ≤ cfg.lsRealSize := by
  simp only [legalLslr, Bool.and_eq_true, List.any_eq_true, List.mem_range, beq_iff_eq, decide_eq_true_eq] at h
  obtain ⟨⟨i, hi, e⟩, hs⟩ := h
  exact ⟨i+4, by omega, by omega, e, by have := Nat.one_le_two_pow (n := i+4); omega⟩

theorem State.Inv.applyAct {s t : State} (h : s.Inv) (a : DeviceAct) (e : s.applyAct a = .ok t) : t.Inv := by
  cases a with
  | write a v bytes =>
    simp only [State.applyAct] at e
    split at e
    · cases e
      exact h.performWrite _ _ _ (Memory.wf_writeSelected _ _ _ _ _ h.memory) (Memory.mem_writeSelected _ _ _ _ _)
        (by omega)
    · cases e
  | supply ca v =>
    simp only [State.applyAct] at e
    split at e
    · cases e; exact h.supply _ _ (by assumption)
    · cases e
  | drain ca =>
    simp only [State.applyAct] at e
    split at e
    · cases e; exact h.drain _ (by assumption)
    · cases e
  | condition v => cases e; exact h.congr rfl rfl rfl rfl rfl rfl rfl rfl
  | stop => cases e; unfold State.stopExternal; split
            · exact h.stopWith _
            · exact h
  | start => cases e; unfold State.start; split
             · exact h
             · have := h.syncC; exact ⟨this.memory, this.inside, this.lslr, this.pcAligned, this.pcInside, this.fpscr, fun _ => rfl, this.channels⟩
  | setReg r v => cases e; exact h.setReg _ _
  | setPc v => cases e; exact h.setPc (pcOk_indTarget s v)
  | setFpscr v => cases e; exact h.setFpscr _
  | setSrr0 v => cases e; unfold State.setSrr0; split <;> exact h.congr rfl rfl rfl rfl rfl rfl rfl rfl
  | setIe v => cases e; exact h.setIe _
  | setSpr sa v =>
    simp only [State.applyAct] at e
    split at e
    · cases e
    · cases e; exact h.writeSpr _ _
  | setLslr v =>
    simp only [State.applyAct] at e
    split at e
    · cases e
    · split at e
      · cases e
        refine ⟨h.memory, h.inside, legalLslr_spec _ _ (by assumption), aligned_and _ h.pcAligned, inside_and _ _, h.fpscr, h.wait, h.channels⟩
      · cases e

theorem State.Inv.applyActs (as : List DeviceAct) : ∀ {s t : State}, s.Inv → s.applyActs as = .ok t → t.Inv := by
  induction as with
  | nil => intro s t h e; cases e; exact h
  | cons a as ih =>
    intro s t h e
    simp only [State.applyActs] at e
    split at e
    · exact ih (h.applyAct a (by assumption)) e
    · cases e

theorem lsa_aligned (l ea : Word) : (lsa l ea).toNat % 16 = 0 := by
    have e : lsa l ea &&& 15#32 = 0#32 := by
      rw [lsa, BitVec.and_assoc]
      simp
    have := congrArg BitVec.toNat e
    rw [BitVec.toNat_and] at this
    exact (Nat.and_two_pow_sub_one_eq_mod _ 4).symm.trans this

end Sys2Proof.Machine
end

