-- ==== Sys2Proof/Laws/PerInstr.lean ====
section
/-!
SUPPORT. The per-instruction family `EncodedByRow`: the word the encoder writes for an instruction is one that a row
of the opcode table matches and from which that row makes the instruction again.
-/

set_option Elab.async false

namespace Sys2Proof.Laws.EncodedByRow

/-- Some row of the opcode table matches the instruction's word and builds the instruction from it. -/
def Statement (i : Instr) : Prop := ∃ r ∈ rows, r.matches (encode i) = true ∧ r.build (encode i) = i

/-- How each of the lemmas below is shown: the row's place in the table, the opcode, the fields. -/
theorem of_row {i : Instr} (w : Word) (hw : encode i = w) (k : Nat) {r : Row} (hk : rows[k]? = some r)
    (hm : w.toNat >>> (32 - r.bits) = r.opcode) (hb : r.build w = i) : Statement i := by
  subst hw
  exact ⟨r, List.mem_of_getElem? hk, (Row.matches_iff r _).mpr hm, hb⟩

theorem lqd (rt ra : Reg) (i10 : BitVec 10) : Statement (.lqd rt ra i10) :=
  of_row (formRI10 0b00110100#8 i10 ra rt) rfl 0 rfl (formRI10_op ..) (by simp)
theorem lqx (rt ra rb : Reg) : Statement (.lqx rt ra rb) :=
  of_row (formRR 0b00111000100#11 rb ra rt) rfl 1 rfl (formRR_op ..) (by simp)
theorem lqa (rt : Reg) (i16 : BitVec 16) : Statement (.lqa rt i16) :=
  of_row (formRI16 0b001100001#9 i16 rt) rfl 2 rfl (formRI16_op ..) (by simp)
theorem lqr (rt : Reg) (i16 : BitVec 16) : Statement (.lqr rt i16) :=
  of_row (formRI16 0b001100111#9 i16 rt) rfl 3 rfl (formRI16_op ..) (by simp)
theorem stqd (rt ra : Reg) (i10 : BitVec 10) : Statement (.stqd rt ra i10) :=
  of_row (formRI10 0b00100100#8 i10 ra rt) rfl 4 rfl (formRI10_op ..) (by simp)
theorem stqx (rt ra rb : Reg) : Statement (.stqx rt ra rb) :=
  of_row (formRR 0b00101000100#11 rb ra rt) rfl 5 rfl (formRR_op ..) (by simp)
theorem stqa (rt : Reg) (i16 : BitVec 16) : Statement (.stqa rt i16) :=
  of_row (formRI16 0b001000001#9 i16 rt) rfl 6 rfl (formRI16_op ..) (by simp)
theorem stqr (rt : Reg) (i16 : BitVec 16) : Statement (.stqr rt i16) :=
  of_row (formRI16 0b001000111#9 i16 rt) rfl 7 rfl (formRI16_op ..) (by simp)
theorem cbd (rt ra : Reg) (i7 : BitVec 7) : Statement (.cbd rt ra i7) :=
  of_row (formRR 0b00111110100#11 i7 ra rt) rfl 8 rfl (formRR_op ..) (by simp)
theorem cbx (rt ra rb : Reg) : Statement (.cbx rt ra rb) :=
  of_row (formRR 0b00111010100#11 rb ra rt) rfl 9 rfl (formRR_op ..) (by simp)
theorem chd (rt ra : Reg) (i7 : BitVec 7) : Statement (.chd rt ra i7) :=
  of_row (formRR 0b00111110101#11 i7 ra rt) rfl 10 rfl (formRR_op ..) (by simp)
theorem chx (rt ra rb : Reg) : Statement (.chx rt ra rb) :=
  of_row (formRR 0b00111010101#11 rb ra rt) rfl 11 rfl (formRR_op ..) (by simp)
theorem cwd (rt ra : Reg) (i7 : BitVec 7) : Statement (.cwd rt ra i7) :=
  of_row (formRR 0b00111110110#11 i7 ra rt) rfl 12 rfl (formRR_op ..) (by simp)
theorem cwx (rt ra rb : Reg) : Statement (.cwx rt ra rb) :=
  of_row (formRR 0b00111010110#11 rb ra rt) rfl 13 rfl (formRR_op ..) (by simp)
theorem cdd (rt ra : Reg) (i7 : BitVec 7) : Statement (.cdd rt ra i7) :=
  of_row (formRR 0b00111110111#11 i7 ra rt) rfl 14 rfl (formRR_op ..) (by simp)
theorem cdx (rt ra rb : Reg) : Statement (.cdx rt ra rb) :=
  of_row (formRR 0b00111010111#11 rb ra rt) rfl 15 rfl (formRR_op ..) (by simp)
theorem ilh (rt : Reg) (i16 : BitVec 16) : Statement (.ilh rt i16) :=
  of_row (formRI16 0b010000011#9 i16 rt) rfl 16 rfl (formRI16_op ..) (by simp)
theorem ilhu (rt : Reg) (i16 : BitVec 16) : Statement (.ilhu rt i16) :=
  of_row (formRI16 0b010000010#9 i16 rt) rfl 17 rfl (formRI16_op ..) (by simp)
theorem il (rt : Reg) (i16 : BitVec 16) : Statement (.il rt i16) :=
  of_row (formRI16 0b010000001#9 i16 rt) rfl 18 rfl (formRI16_op ..) (by simp)
theorem ila (rt : Reg) (i18 : BitVec 18) : Statement (.ila rt i18) :=
  of_row (formRI18 0b0100001#7 i18 rt) rfl 19 rfl (formRI18_op ..) (by simp)
theorem iohl (rt : Reg) (i16 : BitVec 16) : Statement (.iohl rt i16) :=
  of_row (formRI16 0b011000001#9 i16 rt) rfl 20 rfl (formRI16_op ..) (by simp)
theorem fsmbi (rt : Reg) (i16 : BitVec 16) : Statement (.fsmbi rt i16) :=
  of_row (formRI16 0b001100101#9 i16 rt) rfl 21 rfl (formRI16_op ..) (by simp)
theorem ah (rt ra rb : Reg) : Statement (.ah rt ra rb) :=
  of_row (formRR 0b00011001000#11 rb ra rt) rfl 22 rfl (formRR_op ..) (by simp)
theorem ahi (rt ra : Reg) (i10 : BitVec 10) : Statement (.ahi rt ra i10) :=
  of_row (formRI10 0b00011101#8 i10 ra rt) rfl 23 rfl (formRI10_op ..) (by simp)
theorem a (rt ra rb : Reg) : Statement (.a rt ra rb) :=
  of_row (formRR 0b00011000000#11 rb ra rt) rfl 24 rfl (formRR_op ..) (by simp)
theorem ai (rt ra : Reg) (i10 : BitVec 10) : Statement (.ai rt ra i10) :=
  of_row (formRI10 0b00011100#8 i10 ra rt) rfl 25 rfl (formRI10_op ..) (by simp)
theorem sfh (rt ra rb : Reg) : Statement (.sfh rt ra rb) :=
  of_row (formRR 0b00001001000#11 rb ra rt) rfl 26 rfl (formRR_op ..) (by simp)
theorem sfhi (rt ra : Reg) (i10 : BitVec 10) : Statement (.sfhi rt ra i10) :=
  of_row (formRI10 0b00001101#8 i10 ra rt) rfl 27 rfl (formRI10_op ..) (by simp)
theorem sf (rt ra rb : Reg) : Statement (.sf rt ra rb) :=
  of_row (formRR 0b00001000000#11 rb ra rt) rfl 28 rfl (formRR_op ..) (by simp)
theorem sfi (rt ra : Reg) (i10 : BitVec 10) : Statement (.sfi rt ra i10) :=
  of_row (formRI10 0b00001100#8 i10 ra rt) rfl 29 rfl (formRI10_op ..) (by simp)
theorem addx (rt ra rb : Reg) : Statement (.addx rt ra rb) :=
  of_row (formRR 0b01101000000#11 rb ra rt) rfl 30 rfl (formRR_op ..) (by simp)
theorem cg (rt ra rb : Reg) : Statement (.cg rt ra rb) :=
  of_row (formRR 0b00011000010#11 rb ra rt) rfl 31 rfl (formRR_op ..) (by simp)
theorem cgx (rt ra rb : Reg) : Statement (.cgx rt ra rb) :=
  of_row (formRR 0b01101000010#11 rb ra rt) rfl 32 rfl (formRR_op ..) (by simp)
theorem sfx (rt ra rb : Reg) : Statement (.sfx rt ra rb) :=
  of_row (formRR 0b01101000001#11 rb ra rt) rfl 33 rfl (formRR_op ..) (by simp)
theorem bg (rt ra rb : Reg) : Statement (.bg rt ra rb) :=
  of_row (formRR 0b00001000010#11 rb ra rt) rfl 34 rfl (formRR_op ..) (by simp)
theorem bgx (rt ra rb : Reg) : Statement (.bgx rt ra rb) :=
  of_row (formRR 0b01101000011#11 rb ra rt) rfl 35 rfl (formRR_op ..) (by simp)
theorem mpy (rt ra rb : Reg) : Statement (.mpy rt ra rb) :=
  of_row (formRR 0b01111000100#11 rb ra rt) rfl 36 rfl (formRR_op ..) (by simp)
theorem mpyu (rt ra rb : Reg) : Statement (.mpyu rt ra rb) :=
  of_row (formRR 0b01111001100#11 rb ra rt) rfl 37 rfl (formRR_op ..) (by simp)
theorem mpyi (rt ra : Reg) (i10 : BitVec 10) : Statement (.mpyi rt ra i10) :=
  of_row (formRI10 0b01110100#8 i10 ra rt) rfl 38 rfl (formRI10_op ..) (by simp)
theorem mpyui (rt ra : Reg) (i10 : BitVec 10) : Statement (.mpyui rt ra i10) :=
  of_row (formRI10 0b01110101#8 i10 ra rt) rfl 39 rfl (formRI10_op ..) (by simp)
theorem mpya (rt ra rb rc : Reg) : Statement (.mpya rt ra rb rc) :=
  of_row (formRRR 0b1100#4 rt rb ra rc) rfl 40 rfl (formRRR_op ..) (by simp)
theorem mpyh (rt ra rb : Reg) : Statement (.mpyh rt ra rb) :=
  of_row (formRR 0b01111000101#11 rb ra rt) rfl 41 rfl (formRR_op ..) (by simp)
theorem mpys (rt ra rb : Reg) : Statement (.mpys rt ra rb) :=
  of_row (formRR 0b01111000111#11 rb ra rt) rfl 42 rfl (formRR_op ..) (by simp)
theorem mpyhh (rt ra rb : Reg) : Statement (.mpyhh rt ra rb) :=
  of_row (formRR 0b01111000110#11 rb ra rt) rfl 43 rfl (formRR_op ..) (by simp)
theorem mpyhha (rt ra rb : Reg) : Statement (.mpyhha rt ra rb) :=
  of_row (formRR 0b01101000110#11 rb ra rt) rfl 44 rfl (formRR_op ..) (by simp)
theorem mpyhhu (rt ra rb : Reg) : Statement (.mpyhhu rt ra rb) :=
  of_row (formRR 0b01111001110#11 rb ra rt) rfl 45 rfl (formRR_op ..) (by simp)
theorem mpyhhau (rt ra rb : Reg) : Statement (.mpyhhau rt ra rb) :=
  of_row (formRR 0b01101001110#11 rb ra rt) rfl 46 rfl (formRR_op ..) (by simp)
theorem clz (rt ra : Reg) : Statement (.clz rt ra) :=
  of_row (formRR 0b01010100101#11 0#7 ra rt) rfl 47 rfl (formRR_op ..) (by simp)
theorem cntb (rt ra : Reg) : Statement (.cntb rt ra) :=
  of_row (formRR 0b01010110100#11 0#7 ra rt) rfl 48 rfl (formRR_op ..) (by simp)
theorem fsmb (rt ra : Reg) : Statement (.fsmb rt ra) :=
  of_row (formRR 0b00110110110#11 0#7 ra rt) rfl 49 rfl (formRR_op ..) (by simp)
theorem fsmh (rt ra : Reg) : Statement (.fsmh rt ra) :=
  of_row (formRR 0b00110110101#11 0#7 ra rt) rfl 50 rfl (formRR_op ..) (by simp)
theorem fsm (rt ra : Reg) : Statement (.fsm rt ra) :=
  of_row (formRR 0b00110110100#11 0#7 ra rt) rfl 51 rfl (formRR_op ..) (by simp)
theorem gbb (rt ra : Reg) : Statement (.gbb rt ra) :=
  of_row (formRR 0b00110110010#11 0#7 ra rt) rfl 52 rfl (formRR_op ..) (by simp)
theorem gbh (rt ra : Reg) : Statement (.gbh rt ra) :=
  of_row (formRR 0b00110110001#11 0#7 ra rt) rfl 53 rfl (formRR_op ..) (by simp)
theorem gb (rt ra : Reg) : Statement (.gb rt ra) :=
  of_row (formRR 0b00110110000#11 0#7 ra rt) rfl 54 rfl (formRR_op ..) (by simp)
theorem avgb (rt ra rb : Reg) : Statement (.avgb rt ra rb) :=
  of_row (formRR 0b00011010011#11 rb ra rt) rfl 55 rfl (formRR_op ..) (by simp)
theorem absdb (rt ra rb : Reg) : Statement (.absdb rt ra rb) :=
  of_row (formRR 0b00001010011#11 rb ra rt) rfl 56 rfl (formRR_op ..) (by simp)
theorem sumb (rt ra rb : Reg) : Statement (.sumb rt ra rb) :=
  of_row (formRR 0b01001010011#11 rb ra rt) rfl 57 rfl (formRR_op ..) (by simp)
theorem xsbh (rt ra : Reg) : Statement (.xsbh rt ra) :=
  of_row (formRR 0b01010110110#11 0#7 ra rt) rfl 58 rfl (formRR_op ..) (by simp)
theorem xshw (rt ra : Reg) : Statement (.xshw rt ra) :=
  of_row (formRR 0b01010101110#11 0#7 ra rt) rfl 59 rfl (formRR_op ..) (by simp)
theorem xswd (rt ra : Reg) : Statement (.xswd rt ra) :=
  of_row (formRR 0b01010100110#11 0#7 ra rt) rfl 60 rfl (formRR_op ..) (by simp)
theorem and (rt ra rb : Reg) : Statement (.and rt ra rb) :=
  of_row (formRR 0b00011000001#11 rb ra rt) rfl 61 rfl (formRR_op ..) (by simp)
theorem andc (rt ra rb : Reg) : Statement (.andc rt ra rb) :=
  of_row (formRR 0b01011000001#11 rb ra rt) rfl 62 rfl (formRR_op ..) (by simp)
theorem andbi (rt ra : Reg) (i10 : BitVec 10) : Statement (.andbi rt ra i10) :=
  of_row (formRI10 0b00010110#8 i10 ra rt) rfl 63 rfl (formRI10_op ..) (by simp)
theorem andhi (rt ra : Reg) (i10 : BitVec 10) : Statement (.andhi rt ra i10) :=
  of_row (formRI10 0b00010101#8 i10 ra rt) rfl 64 rfl (formRI10_op ..) (by simp)
theorem andi (rt ra : Reg) (i10 : BitVec 10) : Statement (.andi rt ra i10) :=
  of_row (formRI10 0b00010100#8 i10 ra rt) rfl 65 rfl (formRI10_op ..) (by simp)
theorem or (rt ra rb : Reg) : Statement (.or rt ra rb) :=
  of_row (formRR 0b00001000001#11 rb ra rt) rfl 66 rfl (formRR_op ..) (by simp)
theorem orc (rt ra rb : Reg) : Statement (.orc rt ra rb) :=
  of_row (formRR 0b01011001001#11 rb ra rt) rfl 67 rfl (formRR_op ..) (by simp)
theorem orbi (rt ra : Reg) (i10 : BitVec 10) : Statement (.orbi rt ra i10) :=
  of_row (formRI10 0b00000110#8 i10 ra rt) rfl 68 rfl (formRI10_op ..) (by simp)
theorem orhi (rt ra : Reg) (i10 : BitVec 10) : Statement (.orhi rt ra i10) :=
  of_row (formRI10 0b00000101#8 i10 ra rt) rfl 69 rfl (formRI10_op ..) (by simp)
theorem ori (rt ra : Reg) (i10 : BitVec 10) : Statement (.ori rt ra i10) :=
  of_row (formRI10 0b00000100#8 i10 ra rt) rfl 70 rfl (formRI10_op ..) (by simp)
theorem orx (rt ra : Reg) : Statement (.orx rt ra) :=
  of_row (formRR 0b00111110000#11 0#7 ra rt) rfl 71 rfl (formRR_op ..) (by simp)
theorem xor (rt ra rb : Reg) : Statement (.xor rt ra rb) :=
  of_row (formRR 0b01001000001#11 rb ra rt) rfl 72 rfl (formRR_op ..) (by simp)
theorem xorbi (rt ra : Reg) (i10 : BitVec 10) : Statement (.xorbi rt ra i10) :=
  of_row (formRI10 0b01000110#8 i10 ra rt) rfl 73 rfl (formRI10_op ..) (by simp)
theorem xorhi (rt ra : Reg) (i10 : BitVec 10) : Statement (.xorhi rt ra i10) :=
  of_row (formRI10 0b01000101#8 i10 ra rt) rfl 74 rfl (formRI10_op ..) (by simp)
theorem xori (rt ra : Reg) (i10 : BitVec 10) : Statement (.xori rt ra i10) :=
  of_row (formRI10 0b01000100#8 i10 ra rt) rfl 75 rfl (formRI10_op ..) (by simp)
theorem nand (rt ra rb : Reg) : Statement (.nand rt ra rb) :=
  of_row (formRR 0b00011001001#11 rb ra rt) rfl 76 rfl (formRR_op ..) (by simp)
theorem nor (rt ra rb : Reg) : Statement (.nor rt ra rb) :=
  of_row (formRR 0b00001001001#11 rb ra rt) rfl 77 rfl (formRR_op ..) (by simp)
theorem eqv (rt ra rb : Reg) : Statement (.eqv rt ra rb) :=
  of_row (formRR 0b01001001001#11 rb ra rt) rfl 78 rfl (formRR_op ..) (by simp)
theorem selb (rt ra rb rc : Reg) : Statement (.selb rt ra rb rc) :=
  of_row (formRRR 0b1000#4 rt rb ra rc) rfl 79 rfl (formRRR_op ..) (by simp)
theorem shufb (rt ra rb rc : Reg) : Statement (.shufb rt ra rb rc) :=
  of_row (formRRR 0b1011#4 rt rb ra rc) rfl 80 rfl (formRRR_op ..) (by simp)
theorem shlh (rt ra rb : Reg) : Statement (.shlh rt ra rb) :=
  of_row (formRR 0b00001011111#11 rb ra rt) rfl 81 rfl (formRR_op ..) (by simp)
theorem shlhi (rt ra : Reg) (i7 : BitVec 7) : Statement (.shlhi rt ra i7) :=
  of_row (formRR 0b00001111111#11 i7 ra rt) rfl 82 rfl (formRR_op ..) (by simp)
theorem shl (rt ra rb : Reg) : Statement (.shl rt ra rb) :=
  of_row (formRR 0b00001011011#11 rb ra rt) rfl 83 rfl (formRR_op ..) (by simp)
theorem shli (rt ra : Reg) (i7 : BitVec 7) : Statement (.shli rt ra i7) :=
  of_row (formRR 0b00001111011#11 i7 ra rt) rfl 84 rfl (formRR_op ..) (by simp)
theorem shlqbi (rt ra rb : Reg) : Statement (.shlqbi rt ra rb) :=
  of_row (formRR 0b00111011011#11 rb ra rt) rfl 85 rfl (formRR_op ..) (by simp)
theorem shlqbii (rt ra : Reg) (i7 : BitVec 7) : Statement (.shlqbii rt ra i7) :=
  of_row (formRR 0b00111111011#11 i7 ra rt) rfl 86 rfl (formRR_op ..) (by simp)
theorem shlqby (rt ra rb : Reg) : Statement (.shlqby rt ra rb) :=
  of_row (formRR 0b00111011111#11 rb ra rt) rfl 87 rfl (formRR_op ..) (by simp)
theorem shlqbyi (rt ra : Reg) (i7 : BitVec 7) : Statement (.shlqbyi rt ra i7) :=
  of_row (formRR 0b00111111111#11 i7 ra rt) rfl 88 rfl (formRR_op ..) (by simp)
theorem shlqbybi (rt ra rb : Reg) : Statement (.shlqbybi rt ra rb) :=
  of_row (formRR 0b00111001111#11 rb ra rt) rfl 89 rfl (formRR_op ..) (by simp)
theorem roth (rt ra rb : Reg) : Statement (.roth rt ra rb) :=
  of_row (formRR 0b00001011100#11 rb ra rt) rfl 90 rfl (formRR_op ..) (by simp)
theorem rothi (rt ra : Reg) (i7 : BitVec 7) : Statement (.rothi rt ra i7) :=
  of_row (formRR 0b00001111100#11 i7 ra rt) rfl 91 rfl (formRR_op ..) (by simp)
theorem rot (rt ra rb : Reg) : Statement (.rot rt ra rb) :=
  of_row (formRR 0b00001011000#11 rb ra rt) rfl 92 rfl (formRR_op ..) (by simp)
theorem roti (rt ra : Reg) (i7 : BitVec 7) : Statement (.roti rt ra i7) :=
  of_row (formRR 0b00001111000#11 i7 ra rt) rfl 93 rfl (formRR_op ..) (by simp)
theorem rotqby (rt ra rb : Reg) : Statement (.rotqby rt ra rb) :=
  of_row (formRR 0b00111011100#11 rb ra rt) rfl 94 rfl (formRR_op ..) (by simp)
theorem rotqbyi (rt ra : Reg) (i7 : BitVec 7) : Statement (.rotqbyi rt ra i7) :=
  of_row (formRR 0b00111111100#11 i7 ra rt) rfl 95 rfl (formRR_op ..) (by simp)
theorem rotqbybi (rt ra rb : Reg) : Statement (.rotqbybi rt ra rb) :=
  of_row (formRR 0b00111001100#11 rb ra rt) rfl 96 rfl (formRR_op ..) (by simp)
theorem rotqbi (rt ra rb : Reg) : Statement (.rotqbi rt ra rb) :=
  of_row (formRR 0b00111011000#11 rb ra rt) rfl 97 rfl (formRR_op ..) (by simp)
theorem rotqbii (rt ra : Reg) (i7 : BitVec 7) : Statement (.rotqbii rt ra i7) :=
  of_row (formRR 0b00111111000#11 i7 ra rt) rfl 98 rfl (formRR_op ..) (by simp)
theorem rothm (rt ra rb : Reg) : Statement (.rothm rt ra rb) :=
  of_row (formRR 0b00001011101#11 rb ra rt) rfl 99 rfl (formRR_op ..) (by simp)
theorem rothmi (rt ra : Reg) (i7 : BitVec 7) : Statement (.rothmi rt ra i7) :=
  of_row (formRR 0b00001111101#11 i7 ra rt) rfl 100 rfl (formRR_op ..) (by simp)
theorem rotm (rt ra rb : Reg) : Statement (.rotm rt ra rb) :=
  of_row (formRR 0b00001011001#11 rb ra rt) rfl 101 rfl (formRR_op ..) (by simp)
theorem rotmi (rt ra : Reg) (i7 : BitVec 7) : Statement (.rotmi rt ra i7) :=
  of_row (formRR 0b00001111001#11 i7 ra rt) rfl 102 rfl (formRR_op ..) (by simp)
theorem rotqmby (rt ra rb : Reg) : Statement (.rotqmby rt ra rb) :=
  of_row (formRR 0b00111011101#11 rb ra rt) rfl 103 rfl (formRR_op ..) (by simp)
theorem rotqmbyi (rt ra : Reg) (i7 : BitVec 7) : Statement (.rotqmbyi rt ra i7) :=
  of_row (formRR 0b00111111101#11 i7 ra rt) rfl 104 rfl (formRR_op ..) (by simp)
theorem rotqmbybi (rt ra rb : Reg) : Statement (.rotqmbybi rt ra rb) :=
  of_row (formRR 0b00111001101#11 rb ra rt) rfl 105 rfl (formRR_op ..) (by simp)
theorem rotqmbi (rt ra rb : Reg) : Statement (.rotqmbi rt ra rb) :=
  of_row (formRR 0b00111011001#11 rb ra rt) rfl 106 rfl (formRR_op ..) (by simp)
theorem rotqmbii (rt ra : Reg) (i7 : BitVec 7) : Statement (.rotqmbii rt ra i7) :=
  of_row (formRR 0b00111111001#11 i7 ra rt) rfl 107 rfl (formRR_op ..) (by simp)
theorem rotmah (rt ra rb : Reg) : Statement (.rotmah rt ra rb) :=
  of_row (formRR 0b00001011110#11 rb ra rt) rfl 108 rfl (formRR_op ..) (by simp)
theorem rotmahi (rt ra : Reg) (i7 : BitVec 7) : Statement (.rotmahi rt ra i7) :=
  of_row (formRR 0b00001111110#11 i7 ra rt) rfl 109 rfl (formRR_op ..) (by simp)
theorem rotma (rt ra rb : Reg) : Statement (.rotma rt ra rb) :=
  of_row (formRR 0b00001011010#11 rb ra rt) rfl 110 rfl (formRR_op ..) (by simp)
theorem rotmai (rt ra : Reg) (i7 : BitVec 7) : Statement (.rotmai rt ra i7) :=
  of_row (formRR 0b00001111010#11 i7 ra rt) rfl 111 rfl (formRR_op ..) (by simp)
theorem heq (ra rb : Reg) : Statement (.heq ra rb) :=
  of_row (formRR 0b01111011000#11 rb ra 0#7) rfl 112 rfl (formRR_op ..) (by simp)
theorem heqi (ra : Reg) (i10 : BitVec 10) : Statement (.heqi ra i10) :=
  of_row (formRI10 0b01111111#8 i10 ra 0#7) rfl 113 rfl (formRI10_op ..) (by simp)
theorem hgt (ra rb : Reg) : Statement (.hgt ra rb) :=
  of_row (formRR 0b01001011000#11 rb ra 0#7) rfl 114 rfl (formRR_op ..) (by simp)
theorem hgti (ra : Reg) (i10 : BitVec 10) : Statement (.hgti ra i10) :=
  of_row (formRI10 0b01001111#8 i10 ra 0#7) rfl 115 rfl (formRI10_op ..) (by simp)
theorem hlgt (ra rb : Reg) : Statement (.hlgt ra rb) :=
  of_row (formRR 0b01011011000#11 rb ra 0#7) rfl 116 rfl (formRR_op ..) (by simp)
theorem hlgti (ra : Reg) (i10 : BitVec 10) : Statement (.hlgti ra i10) :=
  of_row (formRI10 0b01011111#8 i10 ra 0#7) rfl 117 rfl (formRI10_op ..) (by simp)
theorem ceqb (rt ra rb : Reg) : Statement (.ceqb rt ra rb) :=
  of_row (formRR 0b01111010000#11 rb ra rt) rfl 118 rfl (formRR_op ..) (by simp)
theorem ceqbi (rt ra : Reg) (i10 : BitVec 10) : Statement (.ceqbi rt ra i10) :=
  of_row (formRI10 0b01111110#8 i10 ra rt) rfl 119 rfl (formRI10_op ..) (by simp)
theorem ceqh (rt ra rb : Reg) : Statement (.ceqh rt ra rb) :=
  of_row (formRR 0b01111001000#11 rb ra rt) rfl 120 rfl (formRR_op ..) (by simp)
theorem ceqhi (rt ra : Reg) (i10 : BitVec 10) : Statement (.ceqhi rt ra i10) :=
  of_row (formRI10 0b01111101#8 i10 ra rt) rfl 121 rfl (formRI10_op ..) (by simp)
theorem ceq (rt ra rb : Reg) : Statement (.ceq rt ra rb) :=
  of_row (formRR 0b01111000000#11 rb ra rt) rfl 122 rfl (formRR_op ..) (by simp)
theorem ceqi (rt ra : Reg) (i10 : BitVec 10) : Statement (.ceqi rt ra i10) :=
  of_row (formRI10 0b01111100#8 i10 ra rt) rfl 123 rfl (formRI10_op ..) (by simp)
theorem cgtb (rt ra rb : Reg) : Statement (.cgtb rt ra rb) :=
  of_row (formRR 0b01001010000#11 rb ra rt) rfl 124 rfl (formRR_op ..) (by simp)
theorem cgtbi (rt ra : Reg) (i10 : BitVec 10) : Statement (.cgtbi rt ra i10) :=
  of_row (formRI10 0b01001110#8 i10 ra rt) rfl 125 rfl (formRI10_op ..) (by simp)
theorem cgth (rt ra rb : Reg) : Statement (.cgth rt ra rb) :=
  of_row (formRR 0b01001001000#11 rb ra rt) rfl 126 rfl (formRR_op ..) (by simp)
theorem cgthi (rt ra : Reg) (i10 : BitVec 10) : Statement (.cgthi rt ra i10) :=
  of_row (formRI10 0b01001101#8 i10 ra rt) rfl 127 rfl (formRI10_op ..) (by simp)
theorem cgt (rt ra rb : Reg) : Statement (.cgt rt ra rb) :=
  of_row (formRR 0b01001000000#11 rb ra rt) rfl 128 rfl (formRR_op ..) (by simp)
theorem cgti (rt ra : Reg) (i10 : BitVec 10) : Statement (.cgti rt ra i10) :=
  of_row (formRI10 0b01001100#8 i10 ra rt) rfl 129 rfl (formRI10_op ..) (by simp)
theorem clgtb (rt ra rb : Reg) : Statement (.clgtb rt ra rb) :=
  of_row (formRR 0b01011010000#11 rb ra rt) rfl 130 rfl (formRR_op ..) (by simp)
theorem clgtbi (rt ra : Reg) (i10 : BitVec 10) : Statement (.clgtbi rt ra i10) :=
  of_row (formRI10 0b01011110#8 i10 ra rt) rfl 131 rfl (formRI10_op ..) (by simp)
theorem clgth (rt ra rb : Reg) : Statement (.clgth rt ra rb) :=
  of_row (formRR 0b01011001000#11 rb ra rt) rfl 132 rfl (formRR_op ..) (by simp)
theorem clgthi (rt ra : Reg) (i10 : BitVec 10) : Statement (.clgthi rt ra i10) :=
  of_row (formRI10 0b01011101#8 i10 ra rt) rfl 133 rfl (formRI10_op ..) (by simp)
theorem clgt (rt ra rb : Reg) : Statement (.clgt rt ra rb) :=
  of_row (formRR 0b01011000000#11 rb ra rt) rfl 134 rfl (formRR_op ..) (by simp)
theorem clgti (rt ra : Reg) (i10 : BitVec 10) : Statement (.clgti rt ra i10) :=
  of_row (formRI10 0b01011100#8 i10 ra rt) rfl 135 rfl (formRI10_op ..) (by simp)
theorem br (i16 : BitVec 16) : Statement (.br i16) :=
  of_row (formRI16 0b001100100#9 i16 0#7) rfl 136 rfl (formRI16_op ..) (by simp)
theorem bra (i16 : BitVec 16) : Statement (.bra i16) :=
  of_row (formRI16 0b001100000#9 i16 0#7) rfl 137 rfl (formRI16_op ..) (by simp)
theorem brsl (rt : Reg) (i16 : BitVec 16) : Statement (.brsl rt i16) :=
  of_row (formRI16 0b001100110#9 i16 rt) rfl 138 rfl (formRI16_op ..) (by simp)
theorem brasl (rt : Reg) (i16 : BitVec 16) : Statement (.brasl rt i16) :=
  of_row (formRI16 0b001100010#9 i16 rt) rfl 139 rfl (formRI16_op ..) (by simp)
theorem bi (ra : Reg) (d e : Bool) : Statement (.bi ra d e) :=
  of_row (formBI 0b00110101000#11 d e ra 0#7) rfl 140 rfl (formBI_op ..) (by simp)
theorem iret (ra : Reg) (d e : Bool) : Statement (.iret ra d e) :=
  of_row (formBI 0b00110101010#11 d e ra 0#7) rfl 141 rfl (formBI_op ..) (by simp)
theorem bisled (rt ra : Reg) (d e : Bool) : Statement (.bisled rt ra d e) :=
  of_row (formBI 0b00110101011#11 d e ra rt) rfl 142 rfl (formBI_op ..) (by simp)
theorem bisl (rt ra : Reg) (d e : Bool) : Statement (.bisl rt ra d e) :=
  of_row (formBI 0b00110101001#11 d e ra rt) rfl 143 rfl (formBI_op ..) (by simp)
theorem brnz (rt : Reg) (i16 : BitVec 16) : Statement (.brnz rt i16) :=
  of_row (formRI16 0b001000010#9 i16 rt) rfl 144 rfl (formRI16_op ..) (by simp)
theorem brz (rt : Reg) (i16 : BitVec 16) : Statement (.brz rt i16) :=
  of_row (formRI16 0b001000000#9 i16 rt) rfl 145 rfl (formRI16_op ..) (by simp)
theorem brhnz (rt : Reg) (i16 : BitVec 16) : Statement (.brhnz rt i16) :=
  of_row (formRI16 0b001000110#9 i16 rt) rfl 146 rfl (formRI16_op ..) (by simp)
theorem brhz (rt : Reg) (i16 : BitVec 16) : Statement (.brhz rt i16) :=
  of_row (formRI16 0b001000100#9 i16 rt) rfl 147 rfl (formRI16_op ..) (by simp)
theorem biz (rt ra : Reg) (d e : Bool) : Statement (.biz rt ra d e) :=
  of_row (formBI 0b00100101000#11 d e ra rt) rfl 148 rfl (formBI_op ..) (by simp)
theorem binz (rt ra : Reg) (d e : Bool) : Statement (.binz rt ra d e) :=
  of_row (formBI 0b00100101001#11 d e ra rt) rfl 149 rfl (formBI_op ..) (by simp)
theorem bihz (rt ra : Reg) (d e : Bool) : Statement (.bihz rt ra d e) :=
  of_row (formBI 0b00100101010#11 d e ra rt) rfl 150 rfl (formBI_op ..) (by simp)
theorem bihnz (rt ra : Reg) (d e : Bool) : Statement (.bihnz rt ra d e) :=
  of_row (formBI 0b00100101011#11 d e ra rt) rfl 151 rfl (formBI_op ..) (by simp)
theorem hbr (roh : BitVec 2) (rol : BitVec 7) (ra : Reg) (p : Bool) : Statement (.hbr roh rol ra p) :=
  of_row (formHBR 0b00110101100#11 p roh ra rol) rfl 152 rfl (formHBR_op ..) (by simp)
theorem hbra (roh : BitVec 2) (rol : BitVec 7) (i16 : BitVec 16) : Statement (.hbra roh rol i16) :=
  of_row (formHBRA 0b0001000#7 roh i16 rol) rfl 153 rfl (formHBRA_op ..) (by simp)
theorem hbrr (roh : BitVec 2) (rol : BitVec 7) (i16 : BitVec 16) : Statement (.hbrr roh rol i16) :=
  of_row (formHBRA 0b0001001#7 roh i16 rol) rfl 154 rfl (formHBRA_op ..) (by simp)
theorem fa (rt ra rb : Reg) : Statement (.fa rt ra rb) :=
  of_row (formRR 0b01011000100#11 rb ra rt) rfl 155 rfl (formRR_op ..) (by simp)
theorem dfa (rt ra rb : Reg) : Statement (.dfa rt ra rb) :=
  of_row (formRR 0b01011001100#11 rb ra rt) rfl 156 rfl (formRR_op ..) (by simp)
theorem fs (rt ra rb : Reg) : Statement (.fs rt ra rb) :=
  of_row (formRR 0b01011000101#11 rb ra rt) rfl 157 rfl (formRR_op ..) (by simp)
theorem dfs (rt ra rb : Reg) : Statement (.dfs rt ra rb) :=
  of_row (formRR 0b01011001101#11 rb ra rt) rfl 158 rfl (formRR_op ..) (by simp)
theorem fm (rt ra rb : Reg) : Statement (.fm rt ra rb) :=
  of_row (formRR 0b01011000110#11 rb ra rt) rfl 159 rfl (formRR_op ..) (by simp)
theorem dfm (rt ra rb : Reg) : Statement (.dfm rt ra rb) :=
  of_row (formRR 0b01011001110#11 rb ra rt) rfl 160 rfl (formRR_op ..) (by simp)
theorem fma (rt ra rb rc : Reg) : Statement (.fma rt ra rb rc) :=
  of_row (formRRR 0b1110#4 rt rb ra rc) rfl 161 rfl (formRRR_op ..) (by simp)
theorem dfma (rt ra rb : Reg) : Statement (.dfma rt ra rb) :=
  of_row (formRR 0b01101011100#11 rb ra rt) rfl 162 rfl (formRR_op ..) (by simp)
theorem fnms (rt ra rb rc : Reg) : Statement (.fnms rt ra rb rc) :=
  of_row (formRRR 0b1101#4 rt rb ra rc) rfl 163 rfl (formRRR_op ..) (by simp)
theorem dfnms (rt ra rb : Reg) : Statement (.dfnms rt ra rb) :=
  of_row (formRR 0b01101011110#11 rb ra rt) rfl 164 rfl (formRR_op ..) (by simp)
theorem fms (rt ra rb rc : Reg) : Statement (.fms rt ra rb rc) :=
  of_row (formRRR 0b1111#4 rt rb ra rc) rfl 165 rfl (formRRR_op ..) (by simp)
theorem dfms (rt ra rb : Reg) : Statement (.dfms rt ra rb) :=
  of_row (formRR 0b01101011101#11 rb ra rt) rfl 166 rfl (formRR_op ..) (by simp)
theorem dfnma (rt ra rb : Reg) : Statement (.dfnma rt ra rb) :=
  of_row (formRR 0b01101011111#11 rb ra rt) rfl 167 rfl (formRR_op ..) (by simp)
theorem frest (rt ra : Reg) : Statement (.frest rt ra) :=
  of_row (formRR 0b00110111000#11 0#7 ra rt) rfl 168 rfl (formRR_op ..) (by simp)
theorem frsqest (rt ra : Reg) : Statement (.frsqest rt ra) :=
  of_row (formRR 0b00110111001#11 0#7 ra rt) rfl 169 rfl (formRR_op ..) (by simp)
theorem fi (rt ra rb : Reg) : Statement (.fi rt ra rb) :=
  of_row (formRR 0b01111010100#11 rb ra rt) rfl 170 rfl (formRR_op ..) (by simp)
theorem csflt (rt ra : Reg) (i8 : BitVec 8) : Statement (.csflt rt ra i8) :=
  of_row (formRI8 0b0111011010#10 i8 ra rt) rfl 171 rfl (formRI8_op ..) (by simp)
theorem cflts (rt ra : Reg) (i8 : BitVec 8) : Statement (.cflts rt ra i8) :=
  of_row (formRI8 0b0111011000#10 i8 ra rt) rfl 172 rfl (formRI8_op ..) (by simp)
theorem cuflt (rt ra : Reg) (i8 : BitVec 8) : Statement (.cuflt rt ra i8) :=
  of_row (formRI8 0b0111011011#10 i8 ra rt) rfl 173 rfl (formRI8_op ..) (by simp)
theorem cfltu (rt ra : Reg) (i8 : BitVec 8) : Statement (.cfltu rt ra i8) :=
  of_row (formRI8 0b0111011001#10 i8 ra rt) rfl 174 rfl (formRI8_op ..) (by simp)
theorem frds (rt ra : Reg) : Statement (.frds rt ra) :=
  of_row (formRR 0b01110111001#11 0#7 ra rt) rfl 175 rfl (formRR_op ..) (by simp)
theorem fesd (rt ra : Reg) : Statement (.fesd rt ra) :=
  of_row (formRR 0b01110111000#11 0#7 ra rt) rfl 176 rfl (formRR_op ..) (by simp)
theorem dfceq (rt ra rb : Reg) : Statement (.dfceq rt ra rb) :=
  of_row (formRR 0b01111000011#11 rb ra rt) rfl 177 rfl (formRR_op ..) (by simp)
theorem dfcmeq (rt ra rb : Reg) : Statement (.dfcmeq rt ra rb) :=
  of_row (formRR 0b01111001011#11 rb ra rt) rfl 178 rfl (formRR_op ..) (by simp)
theorem dfcgt (rt ra rb : Reg) : Statement (.dfcgt rt ra rb) :=
  of_row (formRR 0b01011000011#11 rb ra rt) rfl 179 rfl (formRR_op ..) (by simp)
theorem dfcmgt (rt ra rb : Reg) : Statement (.dfcmgt rt ra rb) :=
  of_row (formRR 0b01011001011#11 rb ra rt) rfl 180 rfl (formRR_op ..) (by simp)
theorem dftsv (rt ra : Reg) (i7 : BitVec 7) : Statement (.dftsv rt ra i7) :=
  of_row (formRR 0b01110111111#11 i7 ra rt) rfl 181 rfl (formRR_op ..) (by simp)
theorem fceq (rt ra rb : Reg) : Statement (.fceq rt ra rb) :=
  of_row (formRR 0b01111000010#11 rb ra rt) rfl 182 rfl (formRR_op ..) (by simp)
theorem fcmeq (rt ra rb : Reg) : Statement (.fcmeq rt ra rb) :=
  of_row (formRR 0b01111001010#11 rb ra rt) rfl 183 rfl (formRR_op ..) (by simp)
theorem fcgt (rt ra rb : Reg) : Statement (.fcgt rt ra rb) :=
  of_row (formRR 0b01011000010#11 rb ra rt) rfl 184 rfl (formRR_op ..) (by simp)
theorem fcmgt (rt ra rb : Reg) : Statement (.fcmgt rt ra rb) :=
  of_row (formRR 0b01011001010#11 rb ra rt) rfl 185 rfl (formRR_op ..) (by simp)
theorem fscrwr (ra rt : Reg) : Statement (.fscrwr ra rt) :=
  of_row (formRR 0b01110111010#11 0#7 ra rt) rfl 186 rfl (formRR_op ..) (by simp)
theorem fscrrd (rt : Reg) : Statement (.fscrrd rt) :=
  of_row (formRR 0b01110011000#11 0#7 0#7 rt) rfl 187 rfl (formRR_op ..) (by simp)
theorem stop (sig : BitVec 14) : Statement (.stop sig) :=
  of_row (formSTOP 0b00000000000#11 sig) rfl 188 rfl (formSTOP_op ..) (by simp)
theorem stopd (rt ra rb : Reg) : Statement (.stopd rt ra rb) :=
  of_row (formRR 0b00101000000#11 rb ra rt) rfl 189 rfl (formRR_op ..) (by simp)
theorem lnop : Statement .lnop :=
  of_row (formRR 0b00000000001#11 0#7 0#7 0#7) rfl 190 rfl (formRR_op ..) (rfl)
theorem nop (rt : Reg) : Statement (.nop rt) :=
  of_row (formRR 0b01000000001#11 0#7 0#7 rt) rfl 191 rfl (formRR_op ..) (by simp)
theorem sync (c : Bool) : Statement (.sync c) :=
  of_row (formSYNC 0b00000000010#11 c) rfl 192 rfl (formSYNC_op ..) (by simp)
theorem dsync : Statement .dsync :=
  of_row (formRR 0b00000000011#11 0#7 0#7 0#7) rfl 193 rfl (formRR_op ..) (rfl)
theorem mfspr (rt : Reg) (sa : BitVec 7) : Statement (.mfspr rt sa) :=
  of_row (formRR 0b00000001100#11 0#7 sa rt) rfl 194 rfl (formRR_op ..) (by simp)
theorem mtspr (sa : BitVec 7) (rt : Reg) : Statement (.mtspr sa rt) :=
  of_row (formRR 0b00100001100#11 0#7 sa rt) rfl 195 rfl (formRR_op ..) (by simp)
theorem rdch (rt : Reg) (ca : BitVec 7) : Statement (.rdch rt ca) :=
  of_row (formRR 0b00000001101#11 0#7 ca rt) rfl 196 rfl (formRR_op ..) (by simp)
theorem rchcnt (rt : Reg) (ca : BitVec 7) : Statement (.rchcnt rt ca) :=
  of_row (formRR 0b00000001111#11 0#7 ca rt) rfl 197 rfl (formRR_op ..) (by simp)
theorem wrch (ca : BitVec 7) (rt : Reg) : Statement (.wrch ca rt) :=
  of_row (formRR 0b00100001101#11 0#7 ca rt) rfl 198 rfl (formRR_op ..) (by simp)

end Sys2Proof.Laws.EncodedByRow
end

