-- ==== Sys2Proof/WellFormed.lean ====
section
/-!
DEFINITION. What the manual asks of an instruction beyond its encoding. The machine runs an ill-formed
instruction too, as its rule says (a fault, a free value, no effect); the predicate is for programs.
-/

namespace Sys2Proof

/-- When P is set the RO field must be 0 (spec/46_branch_hints.md R381). -/
def hintWellFormed (roh : BitVec 2) (rol : BitVec 7) (p : Bool) : Bool := !p || (roh == 0 && rol == 0)

/-- D = E = 1 causes undefined behaviour when the branch is taken (spec/45_compare_branch_halt.md R342). -/
def featureWellFormed (d e : Bool) : Bool := !(d && e)

/-- The scale of a conversion must lie in 0 to 127 (spec/47_floating_point.md R426 to R429). -/
def scaleWellFormed (scale : BitVec 8) : Bool := scale ≤ 127#8

/-- The instruction meets every such condition. -/
def Instr.wellFormed : Instr → Bool
  | .lqd .. => true
  | .lqx .. => true
  | .lqa .. => true
  | .lqr .. => true
  | .stqd .. => true
  | .stqx .. => true
  | .stqa .. => true
  | .stqr .. => true
  | .cbd .. => true
  | .cbx .. => true
  | .chd .. => true
  | .chx .. => true
  | .cwd .. => true
  | .cwx .. => true
  | .cdd .. => true
  | .cdx .. => true
  | .ilh .. => true
  | .ilhu .. => true
  | .il .. => true
  | .ila .. => true
  | .iohl .. => true
  | .fsmbi .. => true
  | .ah .. => true
  | .ahi .. => true
  | .a .. => true
  | .ai .. => true
  | .sfh .. => true
  | .sfhi .. => true
  | .sf .. => true
  | .sfi .. => true
  | .addx .. => true
  | .cg .. => true
  | .cgx .. => true
  | .sfx .. => true
  | .bg .. => true
  | .bgx .. => true
  | .mpy .. => true
  | .mpyu .. => true
  | .mpyi .. => true
  | .mpyui .. => true
  | .mpya .. => true
  | .mpyh .. => true
  | .mpys .. => true
  | .mpyhh .. => true
  | .mpyhha .. => true
  | .mpyhhu .. => true
  | .mpyhhau .. => true
  | .clz .. => true
  | .cntb .. => true
  | .fsmb .. => true
  | .fsmh .. => true
  | .fsm .. => true
  | .gbb .. => true
  | .gbh .. => true
  | .gb .. => true
  | .avgb .. => true
  | .absdb .. => true
  | .sumb .. => true
  | .xsbh .. => true
  | .xshw .. => true
  | .xswd .. => true
  | .and .. => true
  | .andc .. => true
  | .andbi .. => true
  | .andhi .. => true
  | .andi .. => true
  | .or .. => true
  | .orc .. => true
  | .orbi .. => true
  | .orhi .. => true
  | .ori .. => true
  | .orx .. => true
  | .xor .. => true
  | .xorbi .. => true
  | .xorhi .. => true
  | .xori .. => true
  | .nand .. => true
  | .nor .. => true
  | .eqv .. => true
  | .selb .. => true
  | .shufb .. => true
  | .shlh .. => true
  | .shlhi .. => true
  | .shl .. => true
  | .shli .. => true
  | .shlqbi .. => true
  | .shlqbii .. => true
  | .shlqby .. => true
  | .shlqbyi .. => true
  | .shlqbybi .. => true
  | .roth .. => true
  | .rothi .. => true
  | .rot .. => true
  | .roti .. => true
  | .rotqby .. => true
  | .rotqbyi .. => true
  | .rotqbybi .. => true
  | .rotqbi .. => true
  | .rotqbii .. => true
  | .rothm .. => true
  | .rothmi .. => true
  | .rotm .. => true
  | .rotmi .. => true
  | .rotqmby .. => true
  | .rotqmbyi .. => true
  | .rotqmbybi .. => true
  | .rotqmbi .. => true
  | .rotqmbii .. => true
  | .rotmah .. => true
  | .rotmahi .. => true
  | .rotma .. => true
  | .rotmai .. => true
  | .heq .. => true
  | .heqi .. => true
  | .hgt .. => true
  | .hgti .. => true
  | .hlgt .. => true
  | .hlgti .. => true
  | .ceqb .. => true
  | .ceqbi .. => true
  | .ceqh .. => true
  | .ceqhi .. => true
  | .ceq .. => true
  | .ceqi .. => true
  | .cgtb .. => true
  | .cgtbi .. => true
  | .cgth .. => true
  | .cgthi .. => true
  | .cgt .. => true
  | .cgti .. => true
  | .clgtb .. => true
  | .clgtbi .. => true
  | .clgth .. => true
  | .clgthi .. => true
  | .clgt .. => true
  | .clgti .. => true
  | .br .. => true
  | .bra .. => true
  | .brsl .. => true
  | .brasl .. => true
  | .bi _ d e => featureWellFormed d e
  | .iret _ d e => featureWellFormed d e
  | .bisled _ _ d e => featureWellFormed d e
  | .bisl _ _ d e => featureWellFormed d e
  | .brnz .. => true
  | .brz .. => true
  | .brhnz .. => true
  | .brhz .. => true
  | .biz _ _ d e => featureWellFormed d e
  | .binz _ _ d e => featureWellFormed d e
  | .bihz _ _ d e => featureWellFormed d e
  | .bihnz _ _ d e => featureWellFormed d e
  | .hbr roh rol _ p => hintWellFormed roh rol p
  | .hbra .. => true
  | .hbrr .. => true
  | .fa .. => true
  | .dfa .. => true
  | .fs .. => true
  | .dfs .. => true
  | .fm .. => true
  | .dfm .. => true
  | .fma .. => true
  | .dfma .. => true
  | .fnms .. => true
  | .dfnms .. => true
  | .fms .. => true
  | .dfms .. => true
  | .dfnma .. => true
  | .frest .. => true
  | .frsqest .. => true
  | .fi .. => true
  | .csflt _ _ i8 => scaleWellFormed (155#8 - i8)
  | .cflts _ _ i8 => scaleWellFormed (173#8 - i8)
  | .cuflt _ _ i8 => scaleWellFormed (155#8 - i8)
  | .cfltu _ _ i8 => scaleWellFormed (173#8 - i8)
  | .frds .. => true
  | .fesd .. => true
  | .dfceq .. => true
  | .dfcmeq .. => true
  | .dfcgt .. => true
  | .dfcmgt .. => true
  | .dftsv .. => true
  | .fceq .. => true
  | .fcmeq .. => true
  | .fcgt .. => true
  | .fcmgt .. => true
  | .fscrwr .. => true
  | .fscrrd .. => true
  | .stop .. => true
  | .stopd .. => true
  | .lnop => true
  | .nop .. => true
  | .sync .. => true
  | .dsync => true
  | .mfspr .. => true
  | .mtspr .. => true
  | .rdch .. => true
  | .rchcnt .. => true
  | .wrch .. => true

end Sys2Proof
end

