-- ==== Sys2Proof/Tests/Slice0.lean ====
section
/-!
SUPPORT. Tests. For every instruction one vector of spec/95_test_vectors.md (a few have a second): the word the spec
writes out decodes to the instruction, and one step on a small state gives the result the spec states. Then encodings
written out field by field, the smoke test of `Instr.wellFormed`, and for every statement with hypotheses a state and
operands that meet them.
-/

set_option Elab.async false

namespace Sys2Proof.Tests

open Sys2Proof Sys2Proof.Machine

/-- The reset state at `pc`, with some registers set. -/
def stateAt (pc : Word) (regs : List (Reg × Quad)) : State :=
  regs.foldl (fun s r => s.setReg r.1 r.2) { State.reset with pc := pc }

/-- The reset state with some registers set. -/
def state (regs : List (Reg × Quad)) : State := stateAt 0 regs

/-- `s` with a quadword in local storage. -/
def putQuad (a : Nat) (q : Quad) (s : State) : State := { s with ls := s.ls.writeQuad a q }

/-- The word decodes to the instruction. -/
def reads (w : Word) (i : Instr) : Bool :=
  match decode w with
  | .ok j => decide (j = i)
  | .error _ => false

/-- The word decodes to `i`, and the step that runs it in `s` answers a next state with the property. -/
def runs (w : Nat) (i : Instr) (s : State) (p : State → Bool) : Bool :=
  reads (BitVec.ofNat 32 w) i && (match step (s.withFetchWord 32 w) with
    | .next t => p t
    | _ => false)

/- Load and store (spec/95_test_vectors.md). -/

theorem test_lqd : runs 0x34800203 (.lqd 3 4 0x200#10) (putQuad 0x00100 0x00112233_44556677_8899AABB_CCDDEEFF (state
      [(4, 0x00002100_00002100_00002100_00002100)]))
    (fun t => t.reg 3 == 0x00112233_44556677_8899AABB_CCDDEEFF && t.pc == 4 && t.fpscr == 0) = true
      := by decide +kernel
theorem test_lqx : runs 0x38814203 (.lqx 3 4 5) (putQuad 0x00100 0x00112233_44556677_8899AABB_CCDDEEFF (state [(4,
      0xFFFFFFF0_FFFFFFF0_FFFFFFF0_FFFFFFF0), (5, 0x0000011F_0000011F_0000011F_0000011F)]))
    (fun t => t.reg 3 == 0x00112233_44556677_8899AABB_CCDDEEFF && t.pc == 4 && t.fpscr == 0) = true
      := by decide +kernel
theorem test_lqa : runs 0x30802003 (.lqa 3 0x40#16) (putQuad 0x00100 0x00112233_44556677_8899AABB_CCDDEEFF (state []))
    (fun t => t.reg 3 == 0x00112233_44556677_8899AABB_CCDDEEFF && t.pc == 4 && t.fpscr == 0) = true
      := by decide +kernel
theorem test_lqr : runs 0x33FFE003 (.lqr 3 0xFFC0#16) (putQuad 0x00100 0x00112233_44556677_8899AABB_CCDDEEFF (stateAt
      0x204 []))
    (fun t => t.reg 3 == 0x00112233_44556677_8899AABB_CCDDEEFF && t.pc == 0x208 && t.fpscr == 0) = true
      := by decide +kernel
theorem test_stqd : runs 0x24008203 (.stqd 3 4 2#10) (state [(3, 0x00112233_44556677_8899AABB_CCDDEEFF), (4,
      0x000000E7_000000E7_000000E7_000000E7)])
    (fun t => t.ls.quadAt 0x00100 == 0x00112233_44556677_8899AABB_CCDDEEFF && t.pc == 4 && t.fpscr == 0) = true
      := by decide +kernel
theorem test_stqx : runs 0x28814203 (.stqx 3 4 5) (state [(3, 0x00112233_44556677_8899AABB_CCDDEEFF), (4,
      0x0003FFF0_0003FFF0_0003FFF0_0003FFF0), (5, 0x00000020_00000020_00000020_00000020)])
    (fun t => t.ls.quadAt 0x00010 == 0x00112233_44556677_8899AABB_CCDDEEFF && t.pc == 4 && t.fpscr == 0) = true
      := by decide +kernel
theorem test_stqa : runs 0x20FFFE03 (.stqa 3 0xFFFC#16) (state [(3, 0xA0A1A2A3_A4A5A6A7_A8A9AAAB_ACADAEAF)])
    (fun t => t.ls.quadAt 0x3FFF0 == 0xA0A1A2A3_A4A5A6A7_A8A9AAAB_ACADAEAF && t.pc == 4 && t.fpscr == 0) = true
      := by decide +kernel
theorem test_stqr : runs 0x23800803 (.stqr 3 0x10#16) (stateAt 0x3C0 [(3, 0xA0A1A2A3_A4A5A6A7_A8A9AAAB_ACADAEAF)])
    (fun t => t.ls.quadAt 0x00400 == 0xA0A1A2A3_A4A5A6A7_A8A9AAAB_ACADAEAF && t.pc == 0x3c4 && t.fpscr == 0) = true
      := by decide +kernel
theorem test_cbd : runs 0x3E800203 (.cbd 3 4 0#7) (state [(4, 0x00001003_00000009_00000009_00000009)])
    (fun t => t.reg 3 == 0x10111203_14151617_18191A1B_1C1D1E1F && t.pc == 4 && t.fpscr == 0) = true
      := by decide +kernel
theorem test_cbx : runs 0x3A814203 (.cbx 3 4 5) (state [(4, 0x00000007_00000007_00000007_00000007), (5,
      0x00000009_00000009_00000009_00000009)])
    (fun t => t.reg 3 == 0x03111213_14151617_18191A1B_1C1D1E1F && t.pc == 4 && t.fpscr == 0) = true
      := by decide +kernel
theorem test_chd : runs 0x3EA00203 (.chd 3 4 0#7) (state [(4, 0x00000005_00000005_00000005_00000005)])
    (fun t => t.reg 3 == 0x10111213_02031617_18191A1B_1C1D1E1F && t.pc == 4 && t.fpscr == 0) = true
      := by decide +kernel
theorem test_chx : runs 0x3AA14203 (.chx 3 4 5) (state [(4, 0x0000000E_0000000E_0000000E_0000000E), (5, 0)])
    (fun t => t.reg 3 == 0x10111213_14151617_18191A1B_1C1D0203 && t.pc == 4 && t.fpscr == 0) = true
      := by decide +kernel
theorem test_cwd : runs 0x3EC00203 (.cwd 3 4 0#7) (state [(4, 0x0000000A_0000000A_0000000A_0000000A)])
    (fun t => t.reg 3 == 0x10111213_14151617_00010203_1C1D1E1F && t.pc == 4 && t.fpscr == 0) = true
      := by decide +kernel
theorem test_cwx : runs 0x3AC14203 (.cwx 3 4 5) (state [(4, 0x00000100_00000100_00000100_00000100), (5,
      0x00000004_00000004_00000004_00000004)])
    (fun t => t.reg 3 == 0x10111213_00010203_18191A1B_1C1D1E1F && t.pc == 4 && t.fpscr == 0) = true
      := by decide +kernel
theorem test_cdd : runs 0x3EE00203 (.cdd 3 4 0#7) (state [(4, 0x0000000F_0000000F_0000000F_0000000F)])
    (fun t => t.reg 3 == 0x10111213_14151617_00010203_04050607 && t.pc == 4 && t.fpscr == 0) = true
      := by decide +kernel
theorem test_cdx : runs 0x3AE14203 (.cdx 3 4 5) (state [(4, 0x00000003_00000003_00000003_00000003), (5,
      0x00000004_00000004_00000004_00000004)])
    (fun t => t.reg 3 == 0x00010203_04050607_18191A1B_1C1D1E1F && t.pc == 4 && t.fpscr == 0) = true
      := by decide +kernel

/- Constant formation (spec/95_test_vectors.md). -/

theorem test_ilh : runs 0x41C00083 (.ilh 3 0x8001#16) (state [])
    (fun t => t.reg 3 == 0x80018001_80018001_80018001_80018001 && t.pc == 4 && t.fpscr == 0) = true
      := by decide +kernel
theorem test_ilhu : runs 0x417FFF83 (.ilhu 3 0xFFFF#16) (state [])
    (fun t => t.reg 3 == 0xFFFF0000_FFFF0000_FFFF0000_FFFF0000 && t.pc == 4 && t.fpscr == 0) = true
      := by decide +kernel
theorem test_il : runs 0x40C00003 (.il 3 0x8000#16) (state [])
    (fun t => t.reg 3 == 0xFFFF8000_FFFF8000_FFFF8000_FFFF8000 && t.pc == 4 && t.fpscr == 0) = true
      := by decide +kernel
theorem test_ila : runs 0x43FFFF83 (.ila 3 0x3FFFF#18) (state [])
    (fun t => t.reg 3 == 0x0003FFFF_0003FFFF_0003FFFF_0003FFFF && t.pc == 4 && t.fpscr == 0) = true
      := by decide +kernel
theorem test_iohl : runs 0x60AB3C03 (.iohl 3 0x5678#16) (state [(3, 0x12340000_FFFF0000_00000001_0000FFFF)])
    (fun t => t.reg 3 == 0x12345678_FFFF5678_00005679_0000FFFF && t.pc == 4 && t.fpscr == 0) = true
      := by decide +kernel
theorem test_fsmbi : runs 0x32C00083 (.fsmbi 3 0x8001#16) (state [])
    (fun t => t.reg 3 == 0xFF000000_00000000_00000000_000000FF && t.pc == 4 && t.fpscr == 0) = true
      := by decide +kernel

/- Integer (spec/95_test_vectors.md). -/

theorem test_ah : runs 0x19014203 (.ah 3 4 5) (state [(4, 0x7FFFFFFF_00018000_12345678_00000000), (5,
      0x00010001_FFFF8000_11111111_00000000)])
    (fun t => t.reg 3 == 0x80000000_00000000_23456789_00000000 && t.pc == 4 && t.fpscr == 0) = true
      := by decide +kernel
theorem test_ahi : runs 0x1DFFC203 (.ahi 3 4 0x3FF#10) (state [(4, 0x00000001_8000FFFF_00000000_00000000)])
    (fun t => t.reg 3 == 0xFFFF0000_7FFFFFFE_FFFFFFFF_FFFFFFFF && t.pc == 4 && t.fpscr == 0) = true
      := by decide +kernel
theorem test_a : runs 0x18014203 (.a 3 4 5) (state [(4, 0xFFFFFFFF_7FFFFFFF_80000000_00000005), (5,
      0x00000001_00000001_80000000_00000007)])
    (fun t => t.reg 3 == 0x00000000_80000000_00000000_0000000C && t.pc == 4 && t.fpscr == 0) = true
      := by decide +kernel
theorem test_ai : runs 0x1C800203 (.ai 3 4 0x200#10) (state [(4, 0x00000200_000001FF_00000000_80000000)])
    (fun t => t.reg 3 == 0x00000000_FFFFFFFF_FFFFFE00_7FFFFE00 && t.pc == 4 && t.fpscr == 0) = true
      := by decide +kernel
theorem test_sfh : runs 0x09014203 (.sfh 3 4 5) (state [(4, 0x00010002_80000001_00000000_00000000), (5,
      0x00000005_7FFF0000_00000000_00000000)])
    (fun t => t.reg 3 == 0xFFFF0003_FFFFFFFF_00000000_00000000 && t.pc == 4 && t.fpscr == 0) = true
      := by decide +kernel
theorem test_sfhi : runs 0x0D000203 (.sfhi 3 4 0#10) (state [(4, 0x00018000_FFFF0000_00000000_00000000)])
    (fun t => t.reg 3 == 0xFFFF8000_00010000_00000000_00000000 && t.pc == 4 && t.fpscr == 0) = true
      := by decide +kernel
theorem test_sf : runs 0x08014203 (.sf 3 4 5) (state [(4, 0x00000001_00000005_80000000_00000000), (5,
      0x00000000_0000000C_7FFFFFFF_00000000)])
    (fun t => t.reg 3 == 0xFFFFFFFF_00000007_FFFFFFFF_00000000 && t.pc == 4 && t.fpscr == 0) = true
      := by decide +kernel
theorem test_sfi : runs 0x0C028203 (.sfi 3 4 0xA#10) (state [(4, 0x00000003_0000000A_0000000B_80000000)])
    (fun t => t.reg 3 == 0x00000007_00000000_FFFFFFFF_8000000A && t.pc == 4 && t.fpscr == 0) = true
      := by decide +kernel
theorem test_addx : runs 0x68014203 (.addx 3 4 5) (state [(3, 0x00000001_FFFFFFFE_FFFFFFFF_00000000), (4,
      0xFFFFFFFF_00000001_00000001_00000002), (5, 0x00000000_00000001_00000001_00000003)])
    (fun t => t.reg 3 == 0x00000000_00000002_00000003_00000005 && t.pc == 4 && t.fpscr == 0) = true
      := by decide +kernel
theorem test_cg : runs 0x18414203 (.cg 3 4 5) (state [(4, 0xFFFFFFFF_7FFFFFFF_80000000_00000000), (5,
      0x00000001_7FFFFFFF_80000000_00000000)])
    (fun t => t.reg 3 == 0x00000001_00000000_00000001_00000000 && t.pc == 4 && t.fpscr == 0) = true
      := by decide +kernel
theorem test_cgx : runs 0x68414203 (.cgx 3 4 5) (state [(3, 0x00000001_00000000_00000001_FFFFFFFE), (4,
      0xFFFFFFFF_FFFFFFFF_7FFFFFFF_FFFFFFFF), (5, 0x00000000_00000000_80000000_00000000)])
    (fun t => t.reg 3 == 0x00000001_00000000_00000001_00000000 && t.pc == 4 && t.fpscr == 0) = true
      := by decide +kernel
theorem test_sfx : runs 0x68214203 (.sfx 3 4 5) (state [(3, 0x00000001_00000000_FFFFFFFE_00000003), (4,
      0x00000003_00000003_00000000_00000001), (5, 0x0000000A_0000000A_00000000_00000000)])
    (fun t => t.reg 3 == 0x00000007_00000006_FFFFFFFF_FFFFFFFF && t.pc == 4 && t.fpscr == 0) = true
      := by decide +kernel
theorem test_bg : runs 0x08414203 (.bg 3 4 5) (state [(4, 0x00000005_00000005_00000006_FFFFFFFF), (5,
      0x00000005_00000006_00000005_00000000)])
    (fun t => t.reg 3 == 0x00000001_00000001_00000000_00000000 && t.pc == 4 && t.fpscr == 0) = true
      := by decide +kernel
theorem test_bgx : runs 0x68614203 (.bgx 3 4 5) (state [(3, 0x00000000_00000001_00000001_00000000), (4,
      0x00000005_00000005_00000006_00000000), (5, 0x00000005_00000005_00000005_00000001)])
    (fun t => t.reg 3 == 0x00000000_00000001_00000000_00000001 && t.pc == 4 && t.fpscr == 0) = true
      := by decide +kernel
theorem test_mpy : runs 0x78814203 (.mpy 3 4 5) (state [(4, 0x1234FFFF_ABCD8000_00007FFF_FFFF0003), (5,
      0x56780002_00008000_00007FFF_0000FFFC)])
    (fun t => t.reg 3 == 0xFFFFFFFE_40000000_3FFF0001_FFFFFFF4 && t.pc == 4 && t.fpscr == 0) = true
      := by decide +kernel
theorem test_mpyu : runs 0x79814203 (.mpyu 3 4 5) (state [(4, 0x1234FFFF_00008000_00000000_00000000), (5,
      0x5678FFFF_00008000_00000000_00000000)])
    (fun t => t.reg 3 == 0xFFFE0001_40000000_00000000_00000000 && t.pc == 4 && t.fpscr == 0) = true
      := by decide +kernel
theorem test_mpyi : runs 0x74FF4203 (.mpyi 3 4 0x3FD#10) (state [(4, 0x00000002_0001FFFE_00008000_00000000)])
    (fun t => t.reg 3 == 0xFFFFFFFA_00000006_00018000_00000000 && t.pc == 4 && t.fpscr == 0) = true
      := by decide +kernel
theorem test_mpyui : runs 0x75FFC203 (.mpyui 3 4 0x3FF#10) (state [(4, 0x00000002_0000FFFF_00000000_00000000)])
    (fun t => t.reg 3 == 0x0001FFFE_FFFE0001_00000000_00000000 && t.pc == 4 && t.fpscr == 0) = true
      := by decide +kernel
theorem test_mpya : runs 0xC0614206 (.mpya 3 4 5 6) (state [(4, 0x00000003_0000FFFF_00007FFF_00000000), (5,
      0x00000004_0000FFFF_00007FFF_00000000), (6, 0x00000064_FFFFFFFF_C0010000_00000009)])
    (fun t => t.reg 3 == 0x00000070_00000000_00000001_00000009 && t.pc == 4 && t.fpscr == 0) = true
      := by decide +kernel
theorem test_mpyh : runs 0x78A14203 (.mpyh 3 4 5) (state [(4, 0x00020000_FFFF1111_12345678_00000000), (5,
      0x99990003_00000002_0000FFFF_00000000)])
    (fun t => t.reg 3 == 0x00060000_FFFE0000_EDCC0000_00000000 && t.pc == 4 && t.fpscr == 0) = true
      := by decide +kernel
theorem test_mpys : runs 0x78E14203 (.mpys 3 4 5) (state [(4, 0x00004000_00008000_0000FFFF_00007FFF), (5,
      0x00004000_00000001_00000001_00007FFF)])
    (fun t => t.reg 3 == 0x00001000_FFFFFFFF_FFFFFFFF_00003FFF && t.pc == 4 && t.fpscr == 0) = true
      := by decide +kernel
theorem test_mpyhh : runs 0x78C14203 (.mpyhh 3 4 5) (state [(4, 0xFFFE1234_80000000_00000000_00000000), (5,
      0x00035678_80000000_00000000_00000000)])
    (fun t => t.reg 3 == 0xFFFFFFFA_40000000_00000000_00000000 && t.pc == 4 && t.fpscr == 0) = true
      := by decide +kernel
theorem test_mpyhha : runs 0x68C14203 (.mpyhha 3 4 5) (state [(3, 0x0000000A_C0000000_00000000_00000000), (4,
      0xFFFE0000_80000000_00000000_00000000), (5, 0x00030000_80000000_00000000_00000000)])
    (fun t => t.reg 3 == 0x00000004_00000000_00000000_00000000 && t.pc == 4 && t.fpscr == 0) = true
      := by decide +kernel
theorem test_mpyhhu : runs 0x79C14203 (.mpyhhu 3 4 5) (state [(4, 0xFFFE1234_FFFF0000_00000000_00000000), (5,
      0x00035678_FFFF0000_00000000_00000000)])
    (fun t => t.reg 3 == 0x0002FFFA_FFFE0001_00000000_00000000 && t.pc == 4 && t.fpscr == 0) = true
      := by decide +kernel
theorem test_mpyhhau : runs 0x69C14203 (.mpyhhau 3 4 5) (state [(3, 0x00000001_0001FFFF_00000000_00000000), (4,
      0xFFFE0000_FFFF0000_00000000_00000000), (5, 0x00030000_FFFF0000_00000000_00000000)])
    (fun t => t.reg 3 == 0x0002FFFB_00000000_00000000_00000000 && t.pc == 4 && t.fpscr == 0) = true
      := by decide +kernel
theorem test_clz : runs 0x54A00203 (.clz 3 4) (state [(4, 0x00000000_00000001_80000000_00010000)])
    (fun t => t.reg 3 == 0x00000020_0000001F_00000000_0000000F && t.pc == 4 && t.fpscr == 0) = true
      := by decide +kernel
theorem test_cntb : runs 0x56800203 (.cntb 3 4) (state [(4, 0x00FF0180_7F55AA03_00000000_FFFFFFFF)])
    (fun t => t.reg 3 == 0x00080101_07040402_00000000_08080808 && t.pc == 4 && t.fpscr == 0) = true
      := by decide +kernel
theorem test_fsmb : runs 0x36C00203 (.fsmb 3 4) (state [(4, 0xFFFF8001_FFFFFFFF_00000000_00000000)])
    (fun t => t.reg 3 == 0xFF000000_00000000_00000000_000000FF && t.pc == 4 && t.fpscr == 0) = true
      := by decide +kernel
theorem test_fsmh : runs 0x36A00203 (.fsmh 3 4) (state [(4, 0xFFFFFFA5_00000000_00000000_00000000)])
    (fun t => t.reg 3 == 0xFFFF0000_FFFF0000_0000FFFF_0000FFFF && t.pc == 4 && t.fpscr == 0) = true
      := by decide +kernel
theorem test_fsm : runs 0x36800203 (.fsm 3 4) (state [(4, 0xFFFFFFF9_00000000_00000000_00000000)])
    (fun t => t.reg 3 == 0xFFFFFFFF_00000000_00000000_FFFFFFFF && t.pc == 4 && t.fpscr == 0) = true
      := by decide +kernel
theorem test_gbb : runs 0x36400203 (.gbb 3 4) (state [(4, 0x01000100_FF02FE03_01010101_00000080)])
    (fun t => t.reg 3 == 0x0000A9F0_00000000_00000000_00000000 && t.pc == 4 && t.fpscr == 0) = true
      := by decide +kernel
theorem test_gbh : runs 0x36200203 (.gbh 3 4) (state [(4, 0x00010000_FFFF0002_80018000_00010001)])
    (fun t => t.reg 3 == 0x000000AB_00000000_00000000_00000000 && t.pc == 4 && t.fpscr == 0) = true
      := by decide +kernel
theorem test_gb : runs 0x36000203 (.gb 3 4) (state [(4, 0x00000001_00000002_00000003_80000001)])
    (fun t => t.reg 3 == 0x0000000B_00000000_00000000_00000000 && t.pc == 4 && t.fpscr == 0) = true
      := by decide +kernel
theorem test_avgb : runs 0x1A614203 (.avgb 3 4 5) (state [(4, 0xFF000102_FE800000_00000000_00000000), (5,
      0xFF010104_FF7F0000_00000000_00000000)])
    (fun t => t.reg 3 == 0xFF010103_FF800000_00000000_00000000 && t.pc == 4 && t.fpscr == 0) = true
      := by decide +kernel
theorem test_absdb : runs 0x0A614203 (.absdb 3 4 5) (state [(4, 0x00FF8001_00000000_00000000_00000000), (5,
      0xFF00017F_00000000_00000000_00000000)])
    (fun t => t.reg 3 == 0xFFFF7F7E_00000000_00000000_00000000 && t.pc == 4 && t.fpscr == 0) = true
      := by decide +kernel
theorem test_sumb : runs 0x4A614203 (.sumb 3 4 5) (state [(4, 0x01020304_FFFFFFFF_00000000_80808080), (5,
      0x10203040_00000001_FFFFFFFF_00000000)])
    (fun t => t.reg 3 == 0x00A0000A_000103FC_03FC0000_00000200 && t.pc == 4 && t.fpscr == 0) = true
      := by decide +kernel
theorem test_xsbh : runs 0x56C00203 (.xsbh 3 4) (state [(4, 0x127F1280_FF00FFFF_00000000_00000000)])
    (fun t => t.reg 3 == 0x007FFF80_0000FFFF_00000000_00000000 && t.pc == 4 && t.fpscr == 0) = true
      := by decide +kernel
theorem test_xshw : runs 0x55C00203 (.xshw 3 4) (state [(4, 0x12347FFF_12348000_FFFF0000_00000000)])
    (fun t => t.reg 3 == 0x00007FFF_FFFF8000_00000000_00000000 && t.pc == 4 && t.fpscr == 0) = true
      := by decide +kernel
theorem test_xswd : runs 0x54C00203 (.xswd 3 4) (state [(4, 0x11111111_7FFFFFFF_22222222_80000000)])
    (fun t => t.reg 3 == 0x00000000_7FFFFFFF_FFFFFFFF_80000000 && t.pc == 4 && t.fpscr == 0) = true
      := by decide +kernel

/- Logical (spec/95_test_vectors.md). -/

theorem test_and : runs 0x18214203 (.and 3 4 5) (state [(4, 0xFFFF0000_0F0F0F0F_12345678_00000000), (5,
      0xFF00FF00_33333333_FFFFFFFF_00000000)])
    (fun t => t.reg 3 == 0xFF000000_03030303_12345678_00000000 && t.pc == 4 && t.fpscr == 0) = true
      := by decide +kernel
theorem test_andc : runs 0x58214203 (.andc 3 4 5) (state [(4, 0xFFFF0000_0F0F0F0F_12345678_00000000), (5,
      0xFF00FF00_33333333_FFFFFFFF_00000000)])
    (fun t => t.reg 3 == 0x00FF0000_0C0C0C0C_00000000_00000000 && t.pc == 4 && t.fpscr == 0) = true
      := by decide +kernel
theorem test_andbi : runs 0x16C3C203 (.andbi 3 4 0x30F#10) (state [(4, 0xFFFF0000_0F0F0F0F_12345678_00000000)])
    (fun t => t.reg 3 == 0x0F0F0000_0F0F0F0F_02040608_00000000 && t.pc == 4 && t.fpscr == 0) = true
      := by decide +kernel
theorem test_andhi : runs 0x15800203 (.andhi 3 4 0x200#10) (state [(4, 0xFFFF0000_0F0F0F0F_12345678_00000000)])
    (fun t => t.reg 3 == 0xFE000000_0E000E00_12005600_00000000 && t.pc == 4 && t.fpscr == 0) = true
      := by decide +kernel
theorem test_andi : runs 0x143FC203 (.andi 3 4 0xFF#10) (state [(4, 0xFFFF0000_0F0F0F0F_12345678_00000000)])
    (fun t => t.reg 3 == 0x00000000_0000000F_00000078_00000000 && t.pc == 4 && t.fpscr == 0) = true
      := by decide +kernel
theorem test_or : runs 0x08214203 (.or 3 4 5) (state [(4, 0xFFFF0000_0F0F0F0F_12345678_00000000), (5,
      0xFF00FF00_33333333_FFFFFFFF_00000000)])
    (fun t => t.reg 3 == 0xFFFFFF00_3F3F3F3F_FFFFFFFF_00000000 && t.pc == 4 && t.fpscr == 0) = true
      := by decide +kernel
theorem test_orc : runs 0x59214203 (.orc 3 4 5) (state [(4, 0xFFFF0000_0F0F0F0F_12345678_00000000), (5,
      0xFF00FF00_33333333_FFFFFFFF_00000000)])
    (fun t => t.reg 3 == 0xFFFF00FF_CFCFCFCF_12345678_FFFFFFFF && t.pc == 4 && t.fpscr == 0) = true
      := by decide +kernel
theorem test_orbi : runs 0x06200203 (.orbi 3 4 0x80#10) (state [(4, 0xFFFF0000_0F0F0F0F_12345678_00000000)])
    (fun t => t.reg 3 == 0xFFFF8080_8F8F8F8F_92B4D6F8_80808080 && t.pc == 4 && t.fpscr == 0) = true
      := by decide +kernel
theorem test_orhi : runs 0x05C00203 (.orhi 3 4 0x300#10) (state [(4, 0xFFFF0000_0F0F0F0F_12345678_00000000)])
    (fun t => t.reg 3 == 0xFFFFFF00_FF0FFF0F_FF34FF78_FF00FF00 && t.pc == 4 && t.fpscr == 0) = true
      := by decide +kernel
theorem test_ori : runs 0x04FFC203 (.ori 3 4 0x3FF#10) (state [(4, 0xFFFF0000_0F0F0F0F_12345678_00000000)])
    (fun t => t.reg 3 == 0xFFFFFFFF_FFFFFFFF_FFFFFFFF_FFFFFFFF && t.pc == 4 && t.fpscr == 0) = true
      := by decide +kernel
theorem test_orx : runs 0x3E000203 (.orx 3 4) (state [(4, 0x01000000_00020000_00000300_00000004)])
    (fun t => t.reg 3 == 0x01020304_00000000_00000000_00000000 && t.pc == 4 && t.fpscr == 0) = true
      := by decide +kernel
theorem test_xor : runs 0x48214203 (.xor 3 4 5) (state [(4, 0xFFFF0000_0F0F0F0F_12345678_00000000), (5,
      0xFF00FF00_33333333_FFFFFFFF_00000000)])
    (fun t => t.reg 3 == 0x00FFFF00_3C3C3C3C_EDCBA987_00000000 && t.pc == 4 && t.fpscr == 0) = true
      := by decide +kernel
theorem test_xorbi : runs 0x463FC203 (.xorbi 3 4 0xFF#10) (state [(4, 0xFFFF0000_0F0F0F0F_12345678_00000000)])
    (fun t => t.reg 3 == 0x0000FFFF_F0F0F0F0_EDCBA987_FFFFFFFF && t.pc == 4 && t.fpscr == 0) = true
      := by decide +kernel
theorem test_xorhi : runs 0x45004203 (.xorhi 3 4 1#10) (state [(4, 0xFFFF0000_0F0F0F0F_12345678_00000000)])
    (fun t => t.reg 3 == 0xFFFE0001_0F0E0F0E_12355679_00010001 && t.pc == 4 && t.fpscr == 0) = true
      := by decide +kernel
theorem test_xori : runs 0x44FFC203 (.xori 3 4 0x3FF#10) (state [(4, 0xFFFF0000_0F0F0F0F_12345678_00000000)])
    (fun t => t.reg 3 == 0x0000FFFF_F0F0F0F0_EDCBA987_FFFFFFFF && t.pc == 4 && t.fpscr == 0) = true
      := by decide +kernel
theorem test_nand : runs 0x19214203 (.nand 3 4 5) (state [(4, 0xFFFF0000_0F0F0F0F_12345678_00000000), (5,
      0xFF00FF00_33333333_FFFFFFFF_00000000)])
    (fun t => t.reg 3 == 0x00FFFFFF_FCFCFCFC_EDCBA987_FFFFFFFF && t.pc == 4 && t.fpscr == 0) = true
      := by decide +kernel
theorem test_nor : runs 0x09214203 (.nor 3 4 5) (state [(4, 0xFFFF0000_0F0F0F0F_12345678_00000000), (5,
      0xFF00FF00_33333333_FFFFFFFF_00000000)])
    (fun t => t.reg 3 == 0x000000FF_C0C0C0C0_00000000_FFFFFFFF && t.pc == 4 && t.fpscr == 0) = true
      := by decide +kernel
theorem test_eqv : runs 0x49214203 (.eqv 3 4 5) (state [(4, 0xFFFF0000_0F0F0F0F_12345678_00000000), (5,
      0xFF00FF00_33333333_FFFFFFFF_00000000)])
    (fun t => t.reg 3 == 0xFF0000FF_C3C3C3C3_12345678_FFFFFFFF && t.pc == 4 && t.fpscr == 0) = true
      := by decide +kernel
theorem test_selb : runs 0x80614206 (.selb 3 4 5 6) (state [(4, 0xAAAAAAAA_AAAAAAAA_AAAAAAAA_AAAAAAAA), (5,
      0x55555555_55555555_55555555_55555555), (6, 0xFFFF0000_0F0F0F0F_00000000_FFFFFFFF)])
    (fun t => t.reg 3 == 0x5555AAAA_A5A5A5A5_AAAAAAAA_55555555 && t.pc == 4 && t.fpscr == 0) = true
      := by decide +kernel
theorem test_shufb : runs 0xB0614206 (.shufb 3 4 5 6) (state [(4, 0x00010203_04050607_08090A0B_0C0D0E0F), (5,
      0x10111213_14151617_18191A1B_1C1D1E1F), (6, 0x001F100F_80BFC0DF_E0FF2031_7F405F60)])
    (fun t => t.reg 3 == 0x001F100F_0000FFFF_80800011_1F001F00 && t.pc == 4 && t.fpscr == 0) = true
      := by decide +kernel

/- Shift and rotate (spec/95_test_vectors.md). -/

theorem test_shlh : runs 0x0BE14203 (.shlh 3 4 5) (state [(4, 0x80010001_FFFFFFFF_12341234_00000000), (5,
      0x0001000F_00100030_00240004_00000000)])
    (fun t => t.reg 3 == 0x00028000_00000000_23402340_00000000 && t.pc == 4 && t.fpscr == 0) = true
      := by decide +kernel
theorem test_shlhi : runs 0x0FE50203 (.shlhi 3 4 0x14#7) (state [(4, 0x80000001_12345678_FFFFFFFF_0000FFFF)])
    (fun t => t.reg 3 == 0 && t.pc == 4 && t.fpscr == 0) = true := by decide +kernel
theorem test_shl : runs 0x0B614203 (.shl 3 4 5) (state [(4, 0x80000001_12345678_FFFFFFFF_0000FFFF), (5,
      0x00000001_00000020_00000040_0000001F)])
    (fun t => t.reg 3 == 0x00000002_00000000_FFFFFFFF_80000000 && t.pc == 4 && t.fpscr == 0) = true
      := by decide +kernel
theorem test_shli : runs 0x0F610203 (.shli 3 4 4#7) (state [(4, 0x80000001_12345678_FFFFFFFF_0000FFFF)])
    (fun t => t.reg 3 == 0x00000010_23456780_FFFFFFF0_000FFFF0 && t.pc == 4 && t.fpscr == 0) = true
      := by decide +kernel
theorem test_shlqbi : runs 0x3B614203 (.shlqbi 3 4 5) (state [(4, 0x80000001_12345678_FFFFFFFF_0000FFFF), (5,
      0xFFFFFFFB_00000009_00000009_00000009)])
    (fun t => t.reg 3 == 0x00000008_91A2B3C7_FFFFFFF8_0007FFF8 && t.pc == 4 && t.fpscr == 0) = true
      := by decide +kernel
theorem test_shlqbii : runs 0x3F61C203 (.shlqbii 3 4 7#7) (state [(4, 0x80000001_12345678_FFFFFFFF_0000FFFF)])
    (fun t => t.reg 3 == 0x00000089_1A2B3C7F_FFFFFF80_007FFF80 && t.pc == 4 && t.fpscr == 0) = true
      := by decide +kernel
theorem test_shlqby : runs 0x3BE14203 (.shlqby 3 4 5) (state [(4, 0x80000001_12345678_FFFFFFFF_0000FFFF), (5,
      0x00000025_00000000_00000000_00000000)])
    (fun t => t.reg 3 == 0x345678FF_FFFFFF00_00FFFF00_00000000 && t.pc == 4 && t.fpscr == 0) = true
      := by decide +kernel
theorem test_shlqbyi : runs 0x3FE30203 (.shlqbyi 3 4 0xC#7) (state [(4, 0x80000001_12345678_FFFFFFFF_0000FFFF)])
    (fun t => t.reg 3 == 0x0000FFFF_00000000_00000000_00000000 && t.pc == 4 && t.fpscr == 0) = true
      := by decide +kernel
theorem test_shlqbybi : runs 0x39E14203 (.shlqbybi 3 4 5) (state [(4, 0x80000001_12345678_FFFFFFFF_0000FFFF), (5,
      0x0000001F_00000000_00000000_00000000)])
    (fun t => t.reg 3 == 0x01123456_78FFFFFF_FF0000FF_FF000000 && t.pc == 4 && t.fpscr == 0) = true
      := by decide +kernel
theorem test_roth : runs 0x0B814203 (.roth 3 4 5) (state [(4, 0x80011234_00000000_00000000_00000000), (5,
      0x00010014_00000000_00000000_00000000)])
    (fun t => t.reg 3 == 0x00032341_00000000_00000000_00000000 && t.pc == 4 && t.fpscr == 0) = true
      := by decide +kernel
theorem test_rothi : runs 0x0F9F0203 (.rothi 3 4 0x7C#7) (state [(4, 0x80011234_00000000_00000000_00000000)])
    (fun t => t.reg 3 == 0x18004123_00000000_00000000_00000000 && t.pc == 4 && t.fpscr == 0) = true
      := by decide +kernel
theorem test_rot : runs 0x0B014203 (.rot 3 4 5) (state [(4, 0x80000001_12345678_FFFFFFFF_0000FFFF), (5,
      0x00000001_00000024_00000020_FFFFFFFF)])
    (fun t => t.reg 3 == 0x00000003_23456781_FFFFFFFF_80007FFF && t.pc == 4 && t.fpscr == 0) = true
      := by decide +kernel
theorem test_roti : runs 0x0F020203 (.roti 3 4 8#7) (state [(4, 0x80000001_12345678_FFFFFFFF_0000FFFF)])
    (fun t => t.reg 3 == 0x00000180_34567812_FFFFFFFF_00FFFF00 && t.pc == 4 && t.fpscr == 0) = true
      := by decide +kernel
theorem test_rotqby : runs 0x3B814203 (.rotqby 3 4 5) (state [(4, 0x80000001_12345678_FFFFFFFF_0000FFFF), (5,
      0x00000013_00000000_00000000_00000000)])
    (fun t => t.reg 3 == 0x01123456_78FFFFFF_FF0000FF_FF800000 && t.pc == 4 && t.fpscr == 0) = true
      := by decide +kernel
theorem test_rotqbyi : runs 0x3F844203 (.rotqbyi 3 4 0x11#7) (state [(4, 0x80000001_12345678_FFFFFFFF_0000FFFF)])
    (fun t => t.reg 3 == 0x00000112_345678FF_FFFFFF00_00FFFF80 && t.pc == 4 && t.fpscr == 0) = true
      := by decide +kernel
theorem test_rotqbybi : runs 0x39814203 (.rotqbybi 3 4 5) (state [(4, 0x80000001_12345678_FFFFFFFF_0000FFFF), (5,
      0x00000027_00000000_00000000_00000000)])
    (fun t => t.reg 3 == 0x12345678_FFFFFFFF_0000FFFF_80000001 && t.pc == 4 && t.fpscr == 0) = true
      := by decide +kernel
theorem test_rotqbi : runs 0x3B014203 (.rotqbi 3 4 5) (state [(4, 0x80000001_12345678_FFFFFFFF_0000FFFF), (5,
      0x0000000C_00000000_00000000_00000000)])
    (fun t => t.reg 3 == 0x00000011_2345678F_FFFFFFF0_000FFFF8 && t.pc == 4 && t.fpscr == 0) = true
      := by decide +kernel
theorem test_rotqbii : runs 0x3F004203 (.rotqbii 3 4 1#7) (state [(4, 0x80000001_12345678_FFFFFFFF_0000FFFF)])
    (fun t => t.reg 3 == 0x00000002_2468ACF1_FFFFFFFE_0001FFFF && t.pc == 4 && t.fpscr == 0) = true
      := by decide +kernel
theorem test_rothm : runs 0x0BA14203 (.rothm 3 4 5) (state [(4, 0x80018001_FFFFFFFF_00000000_00000000), (5,
      0xFFFF0000_FFF0FFE0_00000000_00000000)])
    (fun t => t.reg 3 == 0x40008001_0000FFFF_00000000_00000000 && t.pc == 4 && t.fpscr == 0) = true
      := by decide +kernel
theorem test_rothmi : runs 0x0FBF4203 (.rothmi 3 4 0x7D#7) (state [(4, 0x80018001_FFFF1234_00000000_00000000)])
    (fun t => t.reg 3 == 0x10001000_1FFF0246_00000000_00000000 && t.pc == 4 && t.fpscr == 0) = true
      := by decide +kernel
theorem test_rotm : runs 0x0B214203 (.rotm 3 4 5) (state [(4, 0x80000001_12345678_FFFFFFFF_0000FFFF), (5,
      0xFFFFFFFF_FFFFFFFC_FFFFFFE0_00000000)])
    (fun t => t.reg 3 == 0x40000000_01234567_00000000_0000FFFF && t.pc == 4 && t.fpscr == 0) = true
      := by decide +kernel
theorem test_rotmi : runs 0x0F3E0203 (.rotmi 3 4 0x78#7) (state [(4, 0x80000001_12345678_FFFFFFFF_0000FFFF)])
    (fun t => t.reg 3 == 0x00800000_00123456_00FFFFFF_000000FF && t.pc == 4 && t.fpscr == 0) = true
      := by decide +kernel
theorem test_rotqmby : runs 0x3BA14203 (.rotqmby 3 4 5) (state [(4, 0x80000001_12345678_FFFFFFFF_0000FFFF), (5,
      0xFFFFFFFD_00000000_00000000_00000000)])
    (fun t => t.reg 3 == 0x00000080_00000112_345678FF_FFFFFF00 && t.pc == 4 && t.fpscr == 0) = true
      := by decide +kernel
theorem test_rotqmbyi : runs 0x3FBC4203 (.rotqmbyi 3 4 0x71#7) (state [(4, 0x80000001_12345678_FFFFFFFF_0000FFFF)])
    (fun t => t.reg 3 == 0x00000000_00000000_00000000_00000080 && t.pc == 4 && t.fpscr == 0) = true
      := by decide +kernel
theorem test_rotqmbybi : runs 0x39A14203 (.rotqmbybi 3 4 5) (state [(4, 0x80000001_12345678_FFFFFFFF_0000FFFF), (5,
      0xFFFFFFF0_00000000_00000000_00000000)])
    (fun t => t.reg 3 == 0x00008000_00011234_5678FFFF_FFFF0000 && t.pc == 4 && t.fpscr == 0) = true
      := by decide +kernel
theorem test_rotqmbi : runs 0x3B214203 (.rotqmbi 3 4 5) (state [(4, 0x80000001_12345678_FFFFFFFF_0000FFFF), (5,
      0xFFFFFFFD_00000000_00000000_00000000)])
    (fun t => t.reg 3 == 0x10000000_22468ACF_1FFFFFFF_E0001FFF && t.pc == 4 && t.fpscr == 0) = true
      := by decide +kernel
theorem test_rotqmbii : runs 0x3F3E4203 (.rotqmbii 3 4 0x79#7) (state [(4, 0x80000001_12345678_FFFFFFFF_0000FFFF)])
    (fun t => t.reg 3 == 0x01000000_022468AC_F1FFFFFF_FE0001FF && t.pc == 4 && t.fpscr == 0) = true
      := by decide +kernel
theorem test_rotmah : runs 0x0BC14203 (.rotmah 3 4 5) (state [(4, 0x80017FFF_8000FFFF_00000000_00000000), (5,
      0xFFFFFFFF_FFF0FFF1_00000000_00000000)])
    (fun t => t.reg 3 == 0xC0003FFF_FFFFFFFF_00000000_00000000 && t.pc == 4 && t.fpscr == 0) = true
      := by decide +kernel
theorem test_rotmahi : runs 0x0FDF0203 (.rotmahi 3 4 0x7C#7) (state [(4, 0x80017FFF_00000000_00000000_00000000)])
    (fun t => t.reg 3 == 0xF80007FF_00000000_00000000_00000000 && t.pc == 4 && t.fpscr == 0) = true
      := by decide +kernel
theorem test_rotma : runs 0x0B414203 (.rotma 3 4 5) (state [(4, 0x80000001_12345678_FFFFFFFF_0000FFFF), (5,
      0xFFFFFFFF_FFFFFFFC_FFFFFFE0_FFFFFFC1)])
    (fun t => t.reg 3 == 0xC0000000_01234567_FFFFFFFF_00000000 && t.pc == 4 && t.fpscr == 0) = true
      := by decide +kernel
theorem test_rotmai : runs 0x0F584203 (.rotmai 3 4 0x61#7) (state [(4, 0x80000001_12345678_FFFFFFFF_0000FFFF)])
    (fun t => t.reg 3 == 0xFFFFFFFF_00000000_FFFFFFFF_00000000 && t.pc == 4 && t.fpscr == 0) = true
      := by decide +kernel

/- Halt, compare, branch (spec/95_test_vectors.md). -/

theorem test_heq : runs 0x7B014200 (.heq 4 5) (stateAt 0x40 [(4, 0x00000007_00000001_00000002_00000003), (5,
      0x00000007_00000009_00000009_00000009)])
    (fun t => t.run == .stopped (.halt 0x00040) && t.pc == 0x40 && t.fpscr == 0) = true := by decide +kernel
theorem test_heq_second : runs 0x7B014200 (.heq 4 5) (stateAt 0x40 [(4, 0x00000007_00000001_00000002_00000003), (5,
      0x00000008_00000001_00000002_00000003)])
    (fun t => t.pc == 0x44 && t.fpscr == 0) = true := by decide +kernel
theorem test_heqi : runs 0x7FFFC200 (.heqi 4 0x3FF#10) (stateAt 0x40 [(4, 0xFFFFFFFF_00000000_00000000_00000000)])
    (fun t => t.run == .stopped (.halt 0x00040) && t.pc == 0x40 && t.fpscr == 0) = true := by decide +kernel
theorem test_hgt : runs 0x4B014200 (.hgt 4 5) (stateAt 0x40 [(4, 0x80000000_00000000_00000000_00000000), (5,
      0x7FFFFFFF_00000000_00000000_00000000)])
    (fun t => t.pc == 0x44 && t.fpscr == 0) = true := by decide +kernel
theorem test_hgti : runs 0x4FFFC200 (.hgti 4 0x3FF#10) (stateAt 0x40 [(4, 0)])
    (fun t => t.run == .stopped (.halt 0x00040) && t.pc == 0x40 && t.fpscr == 0) = true := by decide +kernel
theorem test_hlgt : runs 0x5B014200 (.hlgt 4 5) (stateAt 0x40 [(4, 0x80000000_00000000_00000000_00000000), (5,
      0x7FFFFFFF_00000000_00000000_00000000)])
    (fun t => t.run == .stopped (.halt 0x00040) && t.pc == 0x40 && t.fpscr == 0) = true := by decide +kernel
theorem test_hlgti : runs 0x5F000200 (.hlgti 4 0#10) (stateAt 0x40 [(4, 0x00000001_00000001_00000001_00000001)])
    (fun t => t.run == .stopped (.halt 0x00040) && t.pc == 0x40 && t.fpscr == 0) = true := by decide +kernel
theorem test_ceqb : runs 0x7A014203 (.ceqb 3 4 5) (state [(4, 0x007F80FF_00010002_80000000_7FFFFFFF), (5,
      0x0080807F_00020001_7FFFFFFF_7FFFFFFF)])
    (fun t => t.reg 3 == 0xFF00FF00_FF00FF00_00000000_FFFFFFFF && t.pc == 4 && t.fpscr == 0) = true
      := by decide +kernel
theorem test_ceqbi : runs 0x7E5FC203 (.ceqbi 3 4 0x17F#10) (state [(4, 0x007F80FF_00010002_80000000_7FFFFFFF)])
    (fun t => t.reg 3 == 0x00FF0000_00000000_00000000_FF000000 && t.pc == 4 && t.fpscr == 0) = true
      := by decide +kernel
theorem test_ceqh : runs 0x79014203 (.ceqh 3 4 5) (state [(4, 0x007F80FF_00010002_80000000_7FFFFFFF), (5,
      0x0080807F_00020001_7FFFFFFF_7FFFFFFF)])
    (fun t => t.reg 3 == 0x00000000_00000000_00000000_FFFFFFFF && t.pc == 4 && t.fpscr == 0) = true
      := by decide +kernel
theorem test_ceqhi : runs 0x7DFFC203 (.ceqhi 3 4 0x3FF#10) (state [(4, 0xFFFF00FF_00000000_00000000_00000000)])
    (fun t => t.reg 3 == 0xFFFF0000_00000000_00000000_00000000 && t.pc == 4 && t.fpscr == 0) = true
      := by decide +kernel
theorem test_ceq : runs 0x78014203 (.ceq 3 4 5) (state [(4, 0x007F80FF_00010002_80000000_7FFFFFFF), (5,
      0x0080807F_00020001_7FFFFFFF_7FFFFFFF)])
    (fun t => t.reg 3 == 0x00000000_00000000_00000000_FFFFFFFF && t.pc == 4 && t.fpscr == 0) = true
      := by decide +kernel
theorem test_ceqi : runs 0x7C800203 (.ceqi 3 4 0x200#10) (state [(4, 0xFFFFFE00_0000FE00_00000200_00000000)])
    (fun t => t.reg 3 == 0xFFFFFFFF_00000000_00000000_00000000 && t.pc == 4 && t.fpscr == 0) = true
      := by decide +kernel
theorem test_cgtb : runs 0x4A014203 (.cgtb 3 4 5) (state [(4, 0x007F80FF_00010002_80000000_7FFFFFFF), (5,
      0x0080807F_00020001_7FFFFFFF_7FFFFFFF)])
    (fun t => t.reg 3 == 0x00FF0000_000000FF_00FFFFFF_00000000 && t.pc == 4 && t.fpscr == 0) = true
      := by decide +kernel
theorem test_cgtbi : runs 0x4EFFC203 (.cgtbi 3 4 0x3FF#10) (state [(4, 0x007F80FF_00010002_80000000_7FFFFFFF)])
    (fun t => t.reg 3 == 0xFFFF0000_FFFFFFFF_00FFFFFF_FF000000 && t.pc == 4 && t.fpscr == 0) = true
      := by decide +kernel
theorem test_cgth : runs 0x49014203 (.cgth 3 4 5) (state [(4, 0x007F80FF_00010002_80000000_7FFFFFFF), (5,
      0x0080807F_00020001_7FFFFFFF_7FFFFFFF)])
    (fun t => t.reg 3 == 0x0000FFFF_0000FFFF_0000FFFF_00000000 && t.pc == 4 && t.fpscr == 0) = true
      := by decide +kernel
theorem test_cgthi : runs 0x4D000203 (.cgthi 3 4 0#10) (state [(4, 0x007F80FF_00010002_80000000_7FFFFFFF)])
    (fun t => t.reg 3 == 0xFFFF0000_FFFFFFFF_00000000_FFFF0000 && t.pc == 4 && t.fpscr == 0) = true
      := by decide +kernel
theorem test_cgt : runs 0x48014203 (.cgt 3 4 5) (state [(4, 0x007F80FF_00010002_80000000_7FFFFFFF), (5,
      0x0080807F_00020001_7FFFFFFF_7FFFFFFF)])
    (fun t => t.reg 3 == 0 && t.pc == 4 && t.fpscr == 0) = true := by decide +kernel
theorem test_cgti : runs 0x4CFFC203 (.cgti 3 4 0x3FF#10) (state [(4, 0x007F80FF_00010002_80000000_7FFFFFFF)])
    (fun t => t.reg 3 == 0xFFFFFFFF_FFFFFFFF_00000000_FFFFFFFF && t.pc == 4 && t.fpscr == 0) = true
      := by decide +kernel
theorem test_clgtb : runs 0x5A014203 (.clgtb 3 4 5) (state [(4, 0x007F80FF_00010002_80000000_7FFFFFFF), (5,
      0x0080807F_00020001_7FFFFFFF_7FFFFFFF)])
    (fun t => t.reg 3 == 0x000000FF_000000FF_FF000000_00000000 && t.pc == 4 && t.fpscr == 0) = true
      := by decide +kernel
theorem test_clgtbi : runs 0x5E1FC203 (.clgtbi 3 4 0x7F#10) (state [(4, 0x007F80FF_00010002_80000000_7FFFFFFF)])
    (fun t => t.reg 3 == 0x0000FFFF_00000000_FF000000_00FFFFFF && t.pc == 4 && t.fpscr == 0) = true
      := by decide +kernel
theorem test_clgth : runs 0x59014203 (.clgth 3 4 5) (state [(4, 0x007F80FF_00010002_80000000_7FFFFFFF), (5,
      0x0080807F_00020001_7FFFFFFF_7FFFFFFF)])
    (fun t => t.reg 3 == 0x0000FFFF_0000FFFF_FFFF0000_00000000 && t.pc == 4 && t.fpscr == 0) = true
      := by decide +kernel
theorem test_clgthi : runs 0x5DFFC203 (.clgthi 3 4 0x3FF#10) (state [(4, 0x007F80FF_00010002_80000000_7FFFFFFF)])
    (fun t => t.reg 3 == 0 && t.pc == 4 && t.fpscr == 0) = true := by decide +kernel
theorem test_clgt : runs 0x58014203 (.clgt 3 4 5) (state [(4, 0x007F80FF_00010002_80000000_7FFFFFFF), (5,
      0x0080807F_00020001_7FFFFFFF_7FFFFFFF)])
    (fun t => t.reg 3 == 0x00000000_00000000_FFFFFFFF_00000000 && t.pc == 4 && t.fpscr == 0) = true
      := by decide +kernel
theorem test_clgti : runs 0x5CFF8203 (.clgti 3 4 0x3FE#10) (state [(4, 0xFFFFFFFF_FFFFFFFE_00000000_7FFFFFFF)])
    (fun t => t.reg 3 == 0xFFFFFFFF_00000000_00000000_00000000 && t.pc == 4 && t.fpscr == 0) = true
      := by decide +kernel
theorem test_br : runs 0x327FDF80 (.br 0xFFBF#16) (stateAt 0x100 [])
    (fun t => t.pc == 0x3FFFC && t.fpscr == 0) = true := by decide +kernel
theorem test_bra : runs 0x307FFF80 (.bra 0xFFFF#16) (stateAt 0x100 [])
    (fun t => t.pc == 0x3FFFC && t.fpscr == 0) = true := by decide +kernel
theorem test_brsl : runs 0x33000103 (.brsl 3 2#16) (stateAt 0x3FFFC [(3, 0xDEADBEEF_DEADBEEF_DEADBEEF_DEADBEEF)])
    (fun t => t.reg 3 == 0 && t.pc == 0x4 && t.fpscr == 0) = true := by decide +kernel
theorem test_brasl : runs 0x31008003 (.brasl 3 0x100#16) (stateAt 0x20 [])
    (fun t => t.reg 3 == 0x00000024_00000000_00000000_00000000 && t.pc == 0x400 && t.fpscr == 0) = true
      := by decide +kernel
theorem test_bi : runs 0x35000200 (.bi 4 false false) (stateAt 0x20 [(4, 0x00040123_00000005_00000006_00000007)])
    (fun t => t.pc == 0x120 && t.fpscr == 0) = true := by decide +kernel
theorem test_iret : runs 0x35440000 (.iret 0 false true) ({ stateAt 0x20 [] with srr0 := 0x00001234 })
    (fun t => t.ie && t.pc == 0x1234 && t.fpscr == 0) = true := by decide +kernel
theorem test_bisled : runs 0x35600203 (.bisled 3 4 false false) (stateAt 0x20 [(3,
      0xDEADBEEF_DEADBEEF_DEADBEEF_DEADBEEF), (4, 0x00000500_00000500_00000500_00000500)])
    (fun t => t.reg 3 == 0x00000024_00000000_00000000_00000000 && t.pc == 0x24 && t.fpscr == 0) = true
      := by decide +kernel
theorem test_bisl : runs 0x35200204 (.bisl 4 4 false false) (stateAt 0x20 [(4,
      0x00000300_00000300_00000300_00000300)])
    (fun t => t.reg 4 == 0x00000024_00000000_00000000_00000000 && t.pc == 0x300 && t.fpscr == 0) = true
      := by decide +kernel
theorem test_brnz : runs 0x21000803 (.brnz 3 0x10#16) (stateAt 0x100 [(3, 0x00010000_00000000_00000000_00000000)])
    (fun t => t.pc == 0x140 && t.fpscr == 0) = true := by decide +kernel
theorem test_brnz_second : runs 0x21000803 (.brnz 3 0x10#16) (stateAt 0x100 [(3,
      0x00000000_00000001_00000001_00000001)])
    (fun t => t.pc == 0x104 && t.fpscr == 0) = true := by decide +kernel
theorem test_brz : runs 0x207FF803 (.brz 3 0xFFF0#16) (stateAt 0x100 [(3, 0x00000000_00000001_00000001_00000001)])
    (fun t => t.pc == 0xC0 && t.fpscr == 0) = true := by decide +kernel
theorem test_brhnz : runs 0x23000803 (.brhnz 3 0x10#16) (stateAt 0x100 [(3, 0x00010000_00000000_00000000_00000000)])
    (fun t => t.pc == 0x104 && t.fpscr == 0) = true := by decide +kernel
theorem test_brhz : runs 0x22000803 (.brhz 3 0x10#16) (stateAt 0x100 [(3, 0x00010000_00000000_00000000_00000000)])
    (fun t => t.pc == 0x140 && t.fpscr == 0) = true := by decide +kernel
theorem test_biz : runs 0x25000203 (.biz 3 4 false false) (stateAt 0x100 [(3, 0x00000000_00000005_00000005_00000005),
      (4, 0x00001002_00001002_00001002_00001002)])
    (fun t => t.pc == 0x1000 && t.fpscr == 0) = true := by decide +kernel
theorem test_binz : runs 0x25240203 (.binz 3 4 false true) (stateAt 0x100 [(3,
      0x00000000_00000005_00000005_00000005), (4, 0x00001000_00001000_00001000_00001000)])
    (fun t => t.pc == 0x104 && t.fpscr == 0) = true := by decide +kernel
theorem test_bihz : runs 0x25400203 (.bihz 3 4 false false) (stateAt 0x100 [(3,
      0xFFFF0000_00000000_00000000_00000000), (4, 0x00001000_00001000_00001000_00001000)])
    (fun t => t.pc == 0x1000 && t.fpscr == 0) = true := by decide +kernel
theorem test_bihnz : runs 0x25680203 (.bihnz 3 4 true false) ({ stateAt 0x100 [(3,
      0x00000001_00000000_00000000_00000000), (4, 0x00001000_00001000_00001000_00001000)] with ie := true })
    (fun t => !t.ie && t.pc == 0x1000 && t.fpscr == 0) = true := by decide +kernel

/- Branch hints (spec/95_test_vectors.md). -/

theorem test_hbr : runs 0x35800202 (.hbr 0 2 4 false) (stateAt 0x100 [(4, 0x00001000_00001000_00001000_00001000)])
    (fun t => t.pc == 0x104 && t.fpscr == 0) = true := by decide +kernel
theorem test_hbra : runs 0x10008004 (.hbra 0 4 0x100#16) (stateAt 0x100 [])
    (fun t => t.pc == 0x104 && t.fpscr == 0) = true := by decide +kernel
theorem test_hbrr : runs 0x13FFFF7F (.hbrr 3 127 0xFFFE#16) (stateAt 0x100 [])
    (fun t => t.pc == 0x104 && t.fpscr == 0) = true := by decide +kernel

/- Floating point (spec/95_test_vectors.md). -/

theorem test_fa : runs 0x58814203 (.fa 3 4 5) (state [(4, 0x7FFFFFFF_FFFFFFFF_3F800000_4B800000), (5,
      0x7FFFFFFF_FF7FFFFF_BF800000_3F800000)])
    (fun t => t.reg 3 == 0x7FFFFFFF_FFFFFFFF_00000000_4B800000 && t.pc == 4 && t.fpscr ==
      0x00000005_00000005_00000000_00000000) = true := by decide +kernel
theorem test_dfa : runs 0x59814203 (.dfa 3 4 5) (state [(4, 0x3FF00000_00000000_7FF00000_00000000), (5,
      0x3FF00000_00000000_FFF00000_00000000)])
    (fun t => t.reg 3 == 0x40000000_00000000_7FF80000_00000000 && t.pc == 4 && t.fpscr ==
      0x00000000_00000000_00000400_00000000) = true := by decide +kernel
theorem test_dfa_second : runs 0x59814203 (.dfa 3 4 5) (state [(4, 0x00000000_00000001_7FF00000_00000001), (5,
      0x3FF00000_00000000_3FF00000_00000000)])
    (fun t => t.reg 3 == 0x3FF00000_00000000_7FF80000_00000000 && t.pc == 4 && t.fpscr ==
      0x00000000_00000100_00000600_00000000) = true := by decide +kernel
theorem test_fs : runs 0x58A14203 (.fs 3 4 5) (state [(4, 0x3F800000_00800000_3F800000_00000000), (5,
      0x33000000_00800001_40000000_3F800000)])
    (fun t => t.reg 3 == 0x3F7FFFFF_00000000_BF800000_BF800000 && t.pc == 4 && t.fpscr ==
      0x00000000_00000003_00000000_00000000) = true := by decide +kernel
theorem test_dfs : runs 0x59A14203 (.dfs 3 4 5) (state [(4, 0x40080000_00000000_7FF00000_00000000), (5,
      0x3FF00000_00000000_7FF00000_00000000)])
    (fun t => t.reg 3 == 0x40000000_00000000_7FF80000_00000000 && t.pc == 4 && t.fpscr ==
      0x00000000_00000000_00000400_00000000) = true := by decide +kernel
theorem test_fm : runs 0x58C14203 (.fm 3 4 5) (state [(4, 0x40000000_7F800000_00800000_3F800001), (5,
      0x40400000_40000000_3F000000_3F800001)])
    (fun t => t.reg 3 == 0x40C00000_7FFFFFFF_00000000_3F800002 && t.pc == 4 && t.fpscr ==
      0x00000000_00000005_00000003_00000000) = true := by decide +kernel
theorem test_dfm : runs 0x59C14203 (.dfm 3 4 5) ({ state [(4, 0x00100000_00000000_80100000_00000000), (5,
      0x00100000_00000000_00100000_00000000)] with fpscr := 0x00000B00_00000000_00000000_00000000 })
    (fun t => t.reg 3 == 0x00000000_00000001_80000000_00000001 && t.pc == 4 && t.fpscr ==
      0x00000B00_00001800_00001800_00000000) = true := by decide +kernel
theorem test_fma : runs 0xE0614206 (.fma 3 4 5 6) (state [(4, 0x40000000_7FFFFFFF_3F800000_00800000), (5,
      0x40400000_40000000_3F800000_00800000), (6, 0x3F800000_FFFFFFFF_BF800000_00800000)])
    (fun t => t.reg 3 == 0x40E00000_7FFFFFFF_00000000_00800000 && t.pc == 4 && t.fpscr ==
      0x00000000_00000001_00000000_00000000) = true := by decide +kernel
theorem test_dfma : runs 0x6B814203 (.dfma 3 4 5) (state [(3, 0x3FF00000_00000000_BFF00000_00000002), (4,
      0x40000000_00000000_3FF00000_00000001), (5, 0x40080000_00000000_3FF00000_00000001)])
    (fun t => t.reg 3 == 0x401C0000_00000000_39700000_00000000 && t.pc == 4 && t.fpscr == 0) = true
      := by decide +kernel
theorem test_fnms : runs 0xD0614206 (.fnms 3 4 5 6) (state [(4, 0x40000000_3F800000_40000000_00000000), (5,
      0x40400000_3F800000_7F800000_00000000), (6, 0x3F800000_3F800000_00000000_00000000)])
    (fun t => t.reg 3 == 0xC0A00000_00000000_FFFFFFFF_00000000 && t.pc == 4 && t.fpscr ==
      0x00000000_00000000_00000005_00000000) = true := by decide +kernel
theorem test_dfnms : runs 0x6BC14203 (.dfnms 3 4 5) ({ state [(3, 0x3FF00000_00000000_BFF00000_00000000), (4,
      0x7FF00000_00000000_3FF00000_00000000), (5, 0x00000000_00000000_3CA00000_00000000)] with fpscr :=
      0x00000200_00000000_00000000_00000000 })
    (fun t => t.reg 3 == 0x7FF80000_00000000_BFF00000_00000001 && t.pc == 4 && t.fpscr ==
      0x00000200_00000400_00000800_00000000) = true := by decide +kernel
theorem test_fms : runs 0xF0614206 (.fms 3 4 5 6) (state [(4, 0x40000000_3F800000_00000000_00000000), (5,
      0x40400000_3F800000_00000000_00000000), (6, 0x3F800000_40000000_3F800000_00000000)])
    (fun t => t.reg 3 == 0x40A00000_BF800000_BF800000_00000000 && t.pc == 4 && t.fpscr == 0) = true
      := by decide +kernel
theorem test_dfms : runs 0x6BA14203 (.dfms 3 4 5) (state [(3, 0x3FF00000_00000000_7FF00000_00000000), (4,
      0x40000000_00000000_7FF00000_00000000), (5, 0x40080000_00000000_3FF00000_00000000)])
    (fun t => t.reg 3 == 0x40140000_00000000_7FF80000_00000000 && t.pc == 4 && t.fpscr ==
      0x00000000_00000000_00000400_00000000) = true := by decide +kernel
theorem test_dfnma : runs 0x6BE14203 (.dfnma 3 4 5) (state [(3, 0x3FF00000_00000000_00000000_00000000), (4,
      0x40000000_00000000_00000000_00000000), (5, 0x40080000_00000000_3FF00000_00000000)])
    (fun t => t.reg 3 == 0xC01C0000_00000000_80000000_00000000 && t.pc == 4 && t.fpscr == 0) = true
      := by decide +kernel
theorem test_frest : runs 0x37000203 (.frest 3 4) (state [(4, 0x00000000_007FFFFF_80000000_40000000)])
    (fun t => t.pc == 4 && t.fpscr == 0x00000000_00000000_00000000_00000E00) = true := by decide +kernel
theorem test_frsqest : runs 0x37200203 (.frsqest 3 4) (state [(4, 0xC0800000_00000000_7F800000_80000001)])
    (fun t => t.pc == 4 && t.fpscr == 0x00000000_00000000_00000000_00000500) = true := by decide +kernel
theorem test_fi : runs 0x7A814203 (.fi 3 4 5) (state [(4, 0x0007FFFF_12345678_FFF80000_00040000), (5,
      0x3FFFFFFF_3F800000_BF8003FF_00000400)])
    (fun t => t.reg 3 == 0x3FF00001_3F800000_BF800000_00000000 && t.pc == 4 && t.fpscr ==
      0x00000000_00000000_00000000_00000003) = true := by decide +kernel
theorem test_csflt : runs 0x76870203 (.csflt 3 4 0x1C#8) (state [(4, 0x00000001_00000002_FFFFFFFF_00000000)])
    (fun t => t.reg 3 == 0x00000000_00800000_00000000_00000000 && t.pc == 4 && t.fpscr ==
      0x00000003_00000000_00000003_00000000) = true := by decide +kernel
theorem test_cflts : runs 0x762B4203 (.cflts 3 4 0xAD#8) (state [(4, 0x7FFFFFFF_FFFFFFFF_00400000_CF000000)])
    (fun t => t.reg 3 == 0x7FFFFFFF_80000000_00000000_80000000 && t.pc == 4 && t.fpscr == 0) = true
      := by decide +kernel
theorem test_cuflt : runs 0x76E6C203 (.cuflt 3 4 0x9B#8) (state [(4, 0xFFFFFFFF_80000000_00000001_00000000)])
    (fun t => t.reg 3 == 0x4F7FFFFF_4F000000_3F800000_00000000 && t.pc == 4 && t.fpscr == 0) = true
      := by decide +kernel
theorem test_cfltu : runs 0x766B4203 (.cfltu 3 4 0xAD#8) (state [(4, 0x4F800000_BF800000_4F000000_3F7FFFFF)])
    (fun t => t.reg 3 == 0xFFFFFFFF_00000000_80000000_00000000 && t.pc == 4 && t.fpscr == 0) = true
      := by decide +kernel
theorem test_frds : runs 0x77200203 (.frds 3 4) ({ state [(4, 0x47F00000_00000000_47EFFFFF_F0000000)] with fpscr :=
      0x00000100_00000000_00000000_00000000 })
    (fun t => t.reg 3 == 0x7F800000_00000000_7F7FFFFF_00000000 && t.pc == 4 && t.fpscr ==
      0x00000100_00002800_00000800_00000000) = true := by decide +kernel
theorem test_fesd : runs 0x77000203 (.fesd 3 4) (state [(4, 0x00000001_00000000_FF800001_00000000)])
    (fun t => t.reg 3 == 0x00000000_00000000_7FF80000_00000000 && t.pc == 4 && t.fpscr ==
      0x00000000_00000100_00000600_00000000) = true := by decide +kernel
theorem test_dfceq : runs 0x78614203 (.dfceq 3 4 5) (state [(4, 0x00000000_00000000_7FF80000_00000000), (5,
      0x80000000_00000000_7FF80000_00000000)])
    (fun t => t.reg 3 == 0xFFFFFFFF_FFFFFFFF_00000000_00000000 && t.pc == 4 && t.fpscr ==
      0x00000000_00000000_00000400_00000000) = true := by decide +kernel
theorem test_dfcmeq : runs 0x79614203 (.dfcmeq 3 4 5) (state [(4, 0x7FF00000_00000000_3FF00000_00000000), (5,
      0xFFF00000_00000000_40000000_00000000)])
    (fun t => t.reg 3 == 0xFFFFFFFF_FFFFFFFF_00000000_00000000 && t.pc == 4 && t.fpscr == 0) = true
      := by decide +kernel
theorem test_dfcgt : runs 0x58614203 (.dfcgt 3 4 5) (state [(4, 0x7FF00000_00000001_00000000_00000001), (5,
      0x3FF00000_00000000_00000000_00000000)])
    (fun t => t.reg 3 == 0x00000000_00000000_FFFFFFFF_FFFFFFFF && t.pc == 4 && t.fpscr ==
      0x00000000_00000400_00000000_00000000) = true := by decide +kernel
theorem test_dfcmgt : runs 0x59614203 (.dfcmgt 3 4 5) (state [(4, 0xFFF00000_00000000_3FF00000_00000000), (5,
      0x7FEFFFFF_FFFFFFFF_BFF00000_00000000)])
    (fun t => t.reg 3 == 0xFFFFFFFF_FFFFFFFF_00000000_00000000 && t.pc == 4 && t.fpscr == 0) = true
      := by decide +kernel
theorem test_dftsv : runs 0x77E0C203 (.dftsv 3 4 3#7) (state [(4, 0x00000000_00000001_80000000_00000001)])
    (fun t => t.reg 3 == 0xFFFFFFFF_FFFFFFFF_FFFFFFFF_FFFFFFFF && t.pc == 4 && t.fpscr == 0) = true
      := by decide +kernel
theorem test_fceq : runs 0x78414203 (.fceq 3 4 5) (state [(4, 0x00000001_7FC00000_3F800000_7F800000), (5,
      0x80000000_7FC00000_BF800000_FF800000)])
    (fun t => t.reg 3 == 0xFFFFFFFF_FFFFFFFF_00000000_00000000 && t.pc == 4 && t.fpscr == 0) = true
      := by decide +kernel
theorem test_fcmeq : runs 0x79414203 (.fcmeq 3 4 5) (state [(4, 0x00000001_7FC00000_3F800000_7F800000), (5,
      0x80000000_7FC00001_BF800000_FF800000)])
    (fun t => t.reg 3 == 0xFFFFFFFF_00000000_FFFFFFFF_FFFFFFFF && t.pc == 4 && t.fpscr == 0) = true
      := by decide +kernel
theorem test_fcgt : runs 0x58414203 (.fcgt 3 4 5) (state [(4, 0x3F800000_7FFFFFFF_00000001_80000000), (5,
      0xBF800000_7F800000_80000000_00000000)])
    (fun t => t.reg 3 == 0xFFFFFFFF_FFFFFFFF_00000000_00000000 && t.pc == 4 && t.fpscr == 0) = true
      := by decide +kernel
theorem test_fcmgt : runs 0x59414203 (.fcmgt 3 4 5) (state [(4, 0xC0000000_3F800000_807FFFFF_FF800000), (5,
      0x3F800000_C0000000_00000000_7F7FFFFF)])
    (fun t => t.reg 3 == 0xFFFFFFFF_00000000_00000000_FFFFFFFF && t.pc == 4 && t.fpscr == 0) = true
      := by decide +kernel
theorem test_fscrwr : runs 0x77400205 (.fscrwr 4 5) ({ state [(4, 0x00000B00_00000000_00000000_00000000), (5,
      0x12345678_12345678_12345678_12345678)] with fpscr := 0x00000000_00002000_00000000_00000005 })
    (fun t => t.reg 5 == 0x12345678_12345678_12345678_12345678 && t.pc == 4 && t.fpscr ==
      0x00000B00_00000000_00000000_00000000) = true := by decide +kernel
theorem test_fscrrd : runs 0x73000003 (.fscrrd 3) ({ state [(3, 0xFFFFFFFF_FFFFFFFF_FFFFFFFF_FFFFFFFF)] with fpscr :=
      0x00000905_00002800_00000100_00000E02 })
    (fun t => t.reg 3 == 0x00000905_00002800_00000100_00000E02 && t.pc == 4 && t.fpscr ==
      0x00000905_00002800_00000100_00000E02) = true := by decide +kernel

/- Control and channel (spec/95_test_vectors.md). -/

theorem test_stop : runs 0x00002000 (.stop 0x2000#14) (stateAt 0x3FFFC [])
    (fun t => t.run == .stopped (.signal 0x2000) && t.pc == 0 && t.fpscr == 0) = true := by decide +kernel
theorem test_stopd : runs 0x28000000 (.stopd 0 0 0) (stateAt 0x80 [])
    (fun t => t.run == .stopped .stopd && t.pc == 0x84 && t.fpscr == 0) = true := by decide +kernel
theorem test_lnop : runs 0x00200000 .lnop (stateAt 0x80 [])
    (fun t => t.pc == 0x84 && t.fpscr == 0) = true := by decide +kernel
theorem test_nop : runs 0x4020007F (.nop 127) (stateAt 0x80 [(127, 0x12345678_12345678_12345678_12345678)])
    (fun t => t.pc == 0x84 && t.fpscr == 0) = true := by decide +kernel
theorem test_sync : runs 0x00500000 (.sync true) ({ stateAt 0x80 [] with srr0Pending := some 0x00004440 })
    (fun t => t.srr0 == 0x00004440 && t.srr0Pending == none && t.pc == 0x84 && t.fpscr == 0) = true
      := by decide +kernel
theorem test_dsync : runs 0x00600000 .dsync (stateAt 0x80 [])
    (fun t => t.pc == 0x84 && t.fpscr == 0) = true := by decide +kernel
theorem test_mfspr : runs 0x01800283 (.mfspr 3 5#7) (state [(3, 0xFFFFFFFF_FFFFFFFF_FFFFFFFF_FFFFFFFF)])
    (fun t => t.reg 3 == 0 && t.pc == 4 && t.fpscr == 0) = true := by decide +kernel
theorem test_mtspr : runs 0x21800283 (.mtspr 5#7 3) (state [(3, 0x12345678_12345678_12345678_12345678)])
    (fun t => t.pc == 4 && t.fpscr == 0) = true := by decide +kernel
theorem test_rdch : runs 0x01A00783 (.rdch 3 0xF#7) ({ stateAt 0x80 [(3, 0xDEADBEEF_DEADBEEF_DEADBEEF_DEADBEEF)] with
      srr0 := 0x00001230 })
    (fun t => t.reg 3 == 0x00001230_00000000_00000000_00000000 && t.pc == 0x84 && t.fpscr == 0) = true
      := by decide +kernel
theorem test_rdch_second : runs 0x01A00703 (.rdch 3 0xE#7) (stateAt 0x80 [(3, 0xDEADBEEF_DEADBEEF_DEADBEEF_DEADBEEF)])
    (fun t => t.run == .stopped (.invalidChannel 0x00080 14) && t.pc == 0x80 && t.fpscr == 0) = true
      := by decide +kernel
theorem test_rchcnt : runs 0x01E00703 (.rchcnt 3 0xE#7) (stateAt 0x80 [(3, 0xDEADBEEF_DEADBEEF_DEADBEEF_DEADBEEF)])
    (fun t => t.reg 3 == 0x00000001_00000000_00000000_00000000 && t.pc == 0x84 && t.fpscr == 0) = true
      := by decide +kernel
theorem test_wrch : runs 0x21A00705 (.wrch 0xE#7 5) (stateAt 0x80 [(5, 0x00000444_00000001_00000002_00000003)])
    (fun t => t.srr0Pending == some 0x00000444 && t.pc == 0x84 && t.fpscr == 0) = true := by decide +kernel
theorem test_wrch_second : runs 0x21A00785 (.wrch 0xF#7 5) (stateAt 0x80 [(5, 0x00000001_00000001_00000001_00000001)])
    (fun t => t.run == .stopped (.invalidChannel 0x00080 15) && t.pc == 0x80 && t.fpscr == 0) = true
      := by decide +kernel
/- Encodings written out field by field: the opcode, then the fields from the left (spec/30_encoding.md R92 to R101
for the layouts, R106 for the opcodes, R112). -/

/-- Integer, RR: RB, RA, RT. -/
theorem test_encoding_rr : reads (0b00011000000#11 ++ 5#7 ++ 4#7 ++ 3#7) (.a 3 4 5) = true := by decide +kernel
/-- Logical, RRR: the target stands beside the opcode, then RB, RA, RC. -/
theorem test_encoding_rrr : reads (0b1000#4 ++ 3#7 ++ 5#7 ++ 4#7 ++ 6#7) (.selb 3 4 5 6) = true := by decide +kernel
/-- Floating point, RRR. -/
theorem test_encoding_fma : reads (0b1110#4 ++ 127#7 ++ 1#7 ++ 64#7 ++ 2#7) (.fma 127 64 1 2) = true := by
  decide +kernel
/-- Shift, RI7. -/
theorem test_encoding_ri7 : reads (0b00001111011#11 ++ 5#7 ++ 4#7 ++ 3#7) (.shli 3 4 5) = true := by decide +kernel
/-- Conversion, RI8: a ten-bit opcode. -/
theorem test_encoding_ri8 : reads (0b0111011010#10 ++ 155#8 ++ 4#7 ++ 3#7) (.csflt 3 4 155) = true := by
  decide +kernel
/-- Load, RI10. -/
theorem test_encoding_ri10 : reads (0b00110100#8 ++ 2#10 ++ 1#7 ++ 2#7) (.lqd 2 1 2) = true := by decide +kernel
/-- Constant, RI16. -/
theorem test_encoding_ri16 : reads (0b010000001#9 ++ 0x0064#16 ++ 1#7) (.il 1 0x64) = true := by decide +kernel
/-- Constant, RI18. -/
theorem test_encoding_ri18 : reads (0b0100001#7 ++ 0x12345#18 ++ 2#7) (.ila 2 0x12345) = true := by decide +kernel
/-- Branch, RI16. -/
theorem test_encoding_brnz : reads (0b001000010#9 ++ 0xFFFE#16 ++ 1#7) (.brnz 1 0xFFFE) = true := by decide +kernel
/-- Branch, indirect: a reserved bit, D, E, four reserved bits (R98). -/
theorem test_encoding_bi : reads (0b00110101000#11 ++ 0b0#1 ++ 0b1#1 ++ 0b0#1 ++ 0#4 ++ 4#7 ++ 0#7)
    (.bi 4 true false) = true := by decide +kernel
/-- Hint: P, four reserved bits, the high two bits of RO, RA, the low seven bits of RO (R100). -/
theorem test_encoding_hbr : reads (0b00110101100#11 ++ 0b1#1 ++ 0#4 ++ 2#2 ++ 4#7 ++ 9#7) (.hbr 2 9 4 true) = true := by
  decide +kernel
/-- Control: C, twenty reserved bits (R99). -/
theorem test_encoding_sync : reads (0b00000000010#11 ++ 0b1#1 ++ 0#20) (.sync true) = true := by decide +kernel
/-- Control: seven reserved bits, the signal type (R99). -/
theorem test_encoding_stop : reads (0b00000000000#11 ++ 0#7 ++ 0x2000#14) (.stop 0x2000) = true := by decide +kernel
/-- Channel: seven reserved bits, CA, RT (R101). -/
theorem test_encoding_wrch : reads (0b00100001101#11 ++ 0#7 ++ 14#7 ++ 5#7) (.wrch 14 5) = true := by decide +kernel
/-- A word of no row is refused. -/
theorem test_encoding_unassigned : (match decode 0xFFFFFFFF#32 with | .ok _ => true | .error _ => false) = true ∧
    (match decode 0x80000000#32 with | .ok _ => true | .error _ => false) = true ∧
    (match decode 0x00800000#32 with | .ok _ => true | .error _ => false) = false := by decide +kernel

/- Each check of `Instr.wellFormed` refuses an ill-formed term, and takes a term like it. -/

theorem test_wellFormed_hint : Instr.wellFormed (.hbr 0 1 4 true) = false ∧ Instr.wellFormed (.hbr 1 0 4 true) = false ∧
    Instr.wellFormed (.hbr 0 0 4 true) = true ∧ Instr.wellFormed (.hbr 1 1 4 false) = true := by decide
theorem test_wellFormed_feature : Instr.wellFormed (.bi 4 true true) = false ∧
    Instr.wellFormed (.iret 0 true true) = false ∧ Instr.wellFormed (.bisl 3 4 true true) = false ∧
    Instr.wellFormed (.bisled 3 4 true true) = false ∧ Instr.wellFormed (.biz 3 4 true true) = false ∧
    Instr.wellFormed (.binz 3 4 true true) = false ∧ Instr.wellFormed (.bihz 3 4 true true) = false ∧
    Instr.wellFormed (.bihnz 3 4 true true) = false ∧ Instr.wellFormed (.bi 4 true false) = true := by decide
theorem test_wellFormed_scale : Instr.wellFormed (.csflt 3 4 27) = false ∧ Instr.wellFormed (.csflt 3 4 28) = true ∧
    Instr.wellFormed (.cuflt 3 4 156) = false ∧ Instr.wellFormed (.cflts 3 4 45) = false ∧
    Instr.wellFormed (.cfltu 3 4 174) = false ∧ Instr.wellFormed (.cfltu 3 4 46) = true := by decide

/-- Placing a word where `step` fetches changes no register. -/
theorem test_withFetchWord (s : State) (w : Nat) : (s.withFetchWord 32 w).gpr = s.gpr ∧
    (s.withFetchWord 32 w).pc = s.pc ∧ (s.withFetchWord 32 w).fpscr = s.fpscr := ⟨rfl, rfl, rfl⟩

/- Witnesses: for every statement with hypotheses a state and operands that meet them all. -/

/-- `exec` answers a next state with the property. -/
def execs (i : Instr) (s : State) (p : State → Bool) : Bool :=
  match exec i s with
  | .next t => p t
  | _ => false

/-- An IEEE double 1.0 in both slots. -/
def ones : Quad := 0x3FF0000000000000_3FF0000000000000

/-- A state with the word of `a r3,r4,r5` at pc. -/
def ready : State := (state [(4, 7), (5, 9)]).withFetchWord 32 0x18014203

/-- The machine with a read channel 3 of 32 bits that holds one datum, a write channel 28 of 32 bits with one place
left, a read channel 4 and a write channel 29 of 128 bits that are used up, a read channel 5 and a write channel 30 of
128 bits that are not, two special-purpose registers, and the word of `a r3,r4,r5` at pc. -/
def wired : State :=
  { (state [(3, 0x11111111_22222222_33333333_44444444)]).withFetchWord 32 0x18014203 with
    chan := (((((State.reset.chan.set 3 (some ⟨.read, .w32, 1, 1, [0x0000ABCD_00000000_00000000_00000000]⟩)).set 28
      (some ⟨.write, .w32, 1, 1, []⟩)).set 4 (some ⟨.read, .w128, 1, 0, []⟩)).set 29
      (some ⟨.write, .w128, 1, 0, [5]⟩)).set 5 (some ⟨.read, .w128, 2, 1, [5]⟩)).set 30 (some ⟨.write, .w128, 2, 1, [5]⟩)
    spr := (State.reset.spr.set 0 (some (.narrow 7))).set 127 (some (.full 9)) }

theorem witness_NoWordMatchesTwoRows :
    (rows[24]?.map fun r => r.matches 0x18014203#32) = some true ∧ (rows[198]?.map fun r => r.matches 0#32) ≠ none ∧
    rows[199]? = none := by decide +kernel

theorem witness_StepRunsTheDecodedInstruction : ready.Quiet ∧ fetchOlder ready.pc.toNat ready.fetchHist = [] ∧
    (ready.ls.supplied ready.pc.toNat = some 0x18#8 ∧ ready.ls.supplied (ready.pc.toNat + 1) = some 0x01#8 ∧
      ready.ls.supplied (ready.pc.toNat + 2) = some 0x42#8 ∧ ready.ls.supplied (ready.pc.toNat + 3) = some 0x03#8) ∧
    reads (wordOfBytes 0x18#8 0x01#8 0x42#8 0x03#8) (.a 3 4 5) = true :=
  ⟨⟨rfl, rfl, rfl, rfl⟩, rfl, by decide +kernel, by decide +kernel⟩

/-- The second clause: the condition comes true before the boundary, the word is written after it, and the fetch
returns the word before the write or the one after it. -/
theorem witness_StepRunsTheDecodedInstruction_devices :
    (let s := { ready with devices := [⟨[.condition true, .setReg 4 1], [.setReg 5 2]⟩] }
    match s.dropTurn.applyActs s.turn.early with
    | .ok t => !t.interruptDue && (match t.applyActs s.turn.late with
      | .ok u => decide (u.run = .running) && decide (u.wait = none) && (u.fetch.1.map (reads · (.a 3 4 5))).getD false
      | .error _ => false)
    | .error _ => false) = true := by decide +kernel

theorem witness_UnassignedWordsAreIllegal :
    (let s := (state []).withFetchWord 32 0x00800000
     s.Quiet ∧ fetchOlder s.pc.toNat s.fetchHist = []) ∧
    (match ((state []).withFetchWord 32 0x00800000).ls.wordAt 0 with
      | some w => (match decode w with
        | .ok _ => true
        | .error _ => false)
      | none => true) = false ∧
    (State.reset.Quiet ∧ fetchOlder State.reset.pc.toNat State.reset.fetchHist = [] ∧
      State.reset.ls.supplied (State.reset.pc.toNat + 3) = none) ∧
    { State.reset with cfg := { Config.reference with hasDpCompare := false } }.cfg.hasDpCompare = false :=
  ⟨⟨⟨rfl, rfl, rfl, rfl⟩, rfl⟩, by decide +kernel, ⟨⟨rfl, rfl, rfl, rfl⟩, rfl, rfl⟩, rfl⟩

theorem witness_StepKeepsTheInvariant : wired.Inv ∧
    (match step wired with | .next _ => true | _ => false) = true := by
  refine ⟨⟨by decide +kernel, by decide +kernel, ⟨18, by decide +kernel⟩, rfl, rfl, rfl, fun h => rfl, ?_⟩,
    by decide +kernel⟩
  have h : ∀ n : Fin 128, ∀ c ∈ wired.chan[n], (match c.dir with
      | .read => c.count = c.queue.length ∧ c.count ≤ c.capacity
      | .write => c.count + c.queue.length = c.capacity) ∧ ∀ d ∈ c.queue, c.width.narrow d = d := by
    intro n c hc
    have h' : ∀ n : Fin 128, (wired.chan[n].all fun c => (match c.dir with
      | .read => decide (c.count = c.queue.length ∧ c.count ≤ c.capacity)
      | .write => decide (c.count + c.queue.length = c.capacity)) &&
        c.queue.all fun d => decide (c.width.narrow d = d)) = true := by decide +kernel
    have := h' n
    rw [Option.mem_def.mp hc] at this
    cases hd : c.dir <;> simpa [hd] using this
  exact fun ca c hc => h ca.toFin c hc

theorem witness_StoppedExecutesNothing :
    { State.reset with run := .stopped (.signal 0x2000) }.run = .stopped (.signal 0x2000) ∧
    { State.reset with run := .stopped (.signal 0x2000) }.devices = [] := ⟨rfl, rfl⟩

/-- No value for SRR0 is pending, or one is. -/
theorem witness_InterruptEntrySavesPc : { ready with ie := true, extCond := true }.srr0Pending = none ∧
    { ready with ie := true, extCond := true, srr0Pending := some 4 }.srr0Pending ≠ none := by decide +kernel

/-- Both clauses without devices, the second with each of the two conditions false. -/
theorem witness_InterruptIsSampledAtEveryBoundary :
    (let s := { ready with ie := true, extCond := true }
     s.devices = [] ∧ s.run = .running ∧ s.wait = none ∧ s.ie = true ∧ s.extCond = true) ∧
    (let s := { ready with ie := true, extCond := false }
     s.devices = [] ∧ s.run = .running ∧ s.wait = none ∧ ¬(s.ie = true ∧ s.extCond = true)) ∧
    (let s := { ready with ie := false, extCond := true }
     s.devices = [] ∧ s.run = .running ∧ s.wait = none ∧ ¬(s.ie = true ∧ s.extCond = true)) := by decide +kernel

/-- A stopped SPU that a late act starts with the interrupt due: it runs at the boundary, and the acts behind it can
happen after the entry. -/
def startedLate : State :=
  { ready with
    run := .stopped .external, ie := true, extCond := true, pc := 0x100
    devices := [⟨[.setReg 4 1], [.setReg 5 2, .start, .setReg 6 3]⟩] }

/-- The clauses with devices: an interrupt due at the boundary, and an SPU that runs at the end. -/
theorem witness_InterruptIsSampledAtEveryBoundary_devices :
    startedLate.devices = ⟨[.setReg 4 1], [.setReg 5 2, .start, .setReg 6 3]⟩ :: [] ∧
    (match startedLate.dropTurn.applyActs startedLate.turn.early with
     | .ok t => decide (t.run = .running ∧ t.wait = none ∧ t.ie = true ∧ t.extCond = true) &&
       (match t.takeInterrupt.applyActs startedLate.turn.late, t.applyActs startedLate.turn.late with
        | .ok _, .ok u => decide (u.run = .running)
        | _, _ => false)
     | .error _ => false) = true := by decide +kernel

/-- No instruction runs after a late start before the interrupt is sampled: the entry comes first (R501, D13, D23). -/
theorem test_late_start_is_sampled : (match step startedLate with
    | .next t => t.pc == 0 && t.srr0 == 0x100 && !t.ie && t.reg 6 == 3
    | _ => false) = true := by decide +kernel

/-- An SPU that waits for a channel, stopped and started by late acts: the entry saves the channel instruction. -/
theorem test_late_restart_is_sampled : (match step { startedLate with
      run := .running, wait := some (.read 7 4), devices := [⟨[], [.stop, .start]⟩] } with
    | .next t => t.pc == 0 && t.srr0 == 0x100 && t.wait == none
    | _ => false) = true := by decide +kernel

/-- At the last word of local storage. -/
theorem witness_IretResumesTheInterruptedProgram :
    (let s := { stateAt 0x3FFFC [] with ie := true }
     s.srr0Pending = none ∧ s.ie = true ∧ s.pc &&& 3#32 = 0#32 ∧ s.pc &&& ~~~s.lslr = 0#32) := by decide +kernel

/-- At the last word of local storage pc goes on to 0. -/
theorem witness_OtherInstructionsGoOnInSequence : Instr.mayLeaveSequence (.a 3 4 5) = false ∧
    execs (.a 3 4 5) (stateAt 0x3FFFC []) (fun t => t.pc == 0) = true ∧
    Instr.mayLeaveSequence (.stop 1) = false ∧ execs (.stop 1) (stateAt 0x100 []) (fun t => t.pc == 0x104) = true := by
  decide +kernel

/-- A register that is the target and one that is not, an instruction that stores nothing, and one that changes IE. -/
theorem witness_FrameOfEveryInstruction : Instr.target (.a 3 4 5) = some 3 ∧ Instr.target (.a 3 4 5) ≠ some 4 ∧
    Instr.stores (.a 3 4 5) = false ∧ execs (.a 3 4 5) (state [(4, 1)]) (fun t => t.reg 4 == 1) = true ∧
    execs (.bi 4 false true) (state [(4, 1)]) (fun t => t.ie != (state []).ie) = true := by decide +kernel

theorem witness_FlagsAreStickyAndOfTheTables : (∀ ra rt, Instr.fa 3 4 5 ≠ .fscrwr ra rt) ∧
    execs (.fa 3 4 5) (state [(4, 1)]) (fun t => t.fpscr != 0) = true :=
  ⟨by intros; simp, by decide +kernel⟩

/-- An old value of another quadword does not stand in the way. -/
theorem witness_LoadsReadTheQuadword :
    (let s := { state [(4, 0x0003FFF0_00000000_00000000_00000000)] with dataHist := [⟨0, 5, .external⟩] }
     loadOlder (lsa s.lslr (eaD 0 (s.reg 4))).toNat s.dataHist = [] ∧ (lsa s.lslr (eaD 0 (s.reg 4))).toNat ≠ 0) := by
  decide +kernel

/-- A store after a device's write to the same quadword. -/
theorem witness_LoadsReturnAllowedValuesAndOwnStores :
    execs (.stqx 3 4 5) { state [(3, 9)] with dataHist := [⟨0, 5, .external⟩] }
      (fun t => decide (t.loadCandidates 0 = [9])) = true := by decide +kernel

/-- The first and the last quadword of local storage; a word of the quadword stored to, and one outside it. -/
theorem witness_SynchronisationShowsEarlierWrites :
    ((match (state []).applyAct (.write 0 5 0xFFFF) with | .ok _ => true | .error _ => false) = true) ∧
    ((match (state []).applyAct (.write 0x3FFF0 5 0x8001) with | .ok _ => true | .error _ => false) = true) ∧
    execs (.stqx 3 4 5) (state [(3, 9)]) (fun t => decide (t.fetchCandidates 12 = [some 9, none])) = true ∧
    execs (.stqx 3 4 5) (state [(3, 9)]) (fun t => decide (t.fetchCandidates 16 = [none])) = true ∧
    (let s := state [(3, 9)]
     12 = (lsa s.lslr (eaX (s.reg 4) (s.reg 5))).toNat + 4 * 3 ∧ 0 = (lsa s.lslr (eaX (s.reg 4) (s.reg 5))).toNat + 4 * 0) := by
  decide +kernel

/-- Each condition, true and false. -/
theorem witness_HaltsStopOnTheCondition :
    (let s := state [(4, 0xFFFFFFFF_00000000_00000000_00000000), (5, 0x7FFFFFFF_00000000_00000000_00000000)]
     pref (s.reg 4) = pref (s.reg 4) ∧ pref (s.reg 4) ≠ pref (s.reg 5) ∧
     (pref (s.reg 4)).toInt = (0x3FF#10).toInt ∧ (pref (s.reg 5)).toInt ≠ (0x3FF#10).toInt ∧
     (pref (s.reg 4)).toInt < (pref (s.reg 5)).toInt ∧ ¬(pref (s.reg 5)).toInt < (pref (s.reg 4)).toInt ∧
     (0x3FF#10).toInt < (pref (s.reg 5)).toInt ∧ ¬(0x3FF#10).toInt < (pref (s.reg 4)).toInt ∧
     (pref (s.reg 5)).toNat < (pref (s.reg 4)).toNat ∧ ¬(pref (s.reg 4)).toNat < (pref (s.reg 5)).toNat ∧
     ((0x3FE#10).signExtend 32).toNat < (pref (s.reg 4)).toNat ∧
     ¬((0x3FF#10).signExtend 32).toNat < (pref (s.reg 4)).toNat) := by decide +kernel

/-- Feature bits that are not both set; each condition, true and false. -/
theorem witness_IndirectBranchesFollowTheRegister : (true && false) = false ∧ (false && true) = false ∧
    (let s := state [(3, 0x00010000_00000000_00000000_00000000)]
     pref (s.reg 4) = 0#32 ∧ pref (s.reg 3) ≠ 0#32 ∧ (pref (s.reg 3)).toNat % 2 ^ 16 = 0) ∧
    (let s := state [(3, 0x00000001_00000000_00000000_00000000)]
     (pref (s.reg 3)).toNat % 2 ^ 16 ≠ 0) := by decide +kernel

theorem witness_BisledPollsTheExternalCondition : { ready with extCond := true }.extCond = true ∧
    (true && false) = false ∧ ready.extCond = false := by decide +kernel

theorem witness_BothFeatureBitsAreUndefined : { ready with extCond := true }.extCond = true ∧
    (let s := state [(3, 0x00010001_00000000_00000000_00000000)]
     pref (s.reg 4) = 0#32 ∧ pref (s.reg 3) ≠ 0#32 ∧ hw (s.reg 4) 1 = 0#16 ∧ hw (s.reg 3) 1 ≠ 0#16) := by
  decide +kernel

theorem witness_IretGoesToSrr0 : (false && true) = false ∧ ready.srr0Pending = none ∧
    { ready with srr0Pending := some 4 }.srr0Pending ≠ none := by decide +kernel

/-- Either value of FP_SINGLE's parameter. -/
theorem witness_SingleArithmeticRoundsOnce : ready.cfg.fpSingleRef = true ∧
    { ready with cfg := { ready.cfg with fpSingleRef := false } }.cfg.fpSingleRef = false := ⟨rfl, rfl⟩

/-- The least and the greatest scale. -/
theorem witness_ConversionsRoundAndSaturate : (155#8 - 155#8).toNat = 0 ∧ (155#8 - 28#8).toNat = 127 ∧
    (173#8 - 173#8).toNat = 0 ∧ (173#8 - 46#8).toNat = 127 := by decide

/-- The scales next to those and the greatest. -/
theorem witness_ConversionsOutOfRangeComplete : (155#8 - 27#8).toNat = 128 ∧ (155#8 - 156#8).toNat = 255 ∧
    (173#8 - 45#8).toNat = 128 ∧ (173#8 - 174#8).toNat = 255 := by decide

/-- Two runs of the estimates' sequences: registers apart from one another, the constants in every word. -/
theorem witness_EstimatesSetDivideByZeroAndAreAccurate :
    (let s := state [(4, 0x3F800000_3F800000_3F800000_3F800000), (5, 0x7FFFFFFF_7FFFFFFF_7FFFFFFF_7FFFFFFF),
      (6, 0x3F000000_3F000000_3F000000_3F000000)]
     s.cfg.fpSingleRef = true ∧ [3, 4, 10, 11, 12].Nodup (α := Reg) ∧ [3, 5, 6, 4, 10, 11, 12, 13, 14].Nodup (α := Reg) ∧
     (∀ k < 4, word (s.reg 4) k = 0x3F800000#32) ∧ (∀ k < 4, word (s.reg 5) k = 0x7FFFFFFF#32) ∧
     ∀ k < 4, word (s.reg 6) k = 0x3F000000#32) := by decide +kernel

/-- Finite operands in the reference instance, and the other. -/
theorem witness_DoubleArithmeticRoundsOnce :
    (let s := state [(3, ones), (4, ones), (5, ones)]
     s.cfg.fpDoubleRef = true ∧ ∀ r ∈ [(4 : Reg), 5, 3], ∀ k < 2, dExp (dword (s.reg r) k) ≠ 2047) ∧
    { ready with cfg := { ready.cfg with fpDoubleRef := false } }.cfg.fpDoubleRef = false := by decide +kernel

/-- A NaN; infinity minus infinity; infinity times zero; an infinite product and an infinite addend; no two of them
meet in one slot of these registers. An infinity beside a number: infinity plus 1, times 1, times 1 plus 1. The other
treatment of NaNs, of a signalling and of a quiet one. -/
theorem witness_DoubleSpecialOperands :
    (let s := state [(3, 0x7FF0000000000000_FFF0000000000000), (4, 0x7FF0000000000000_7FF0000000000001), (5, ones)]
     s.cfg.fpDoubleRef = true ∧ s.cfg.dpNanDefault = true ∧ dNaN (dword (s.reg 4) 1) = true ∧
     dInf (dword (s.reg 3) 1) = true ∧ dInf (dword (s.reg 3) 0) = true ∧ dInf (dword (s.reg 4) 0) = true ∧
     dSign (dword (s.reg 3) 1) ≠ dSign (dword (s.reg 4) 0) ∧ dSign (dword (s.reg 3) 0) = dSign (dword (s.reg 4) 0) ∧
     dZero (flush s.cfg (dword (s.reg 9) 0)) = true ∧ dNaN (dword (s.reg 3) 0) = false ∧
     dExp (dword (s.reg 5) 0) ≠ 2047 ∧ dNaN (dword (s.reg 4) 0) = false ∧ dNaN (dword (s.reg 5) 0) = false ∧
     dInf (dword (s.reg 5) 0) = false ∧ dZero (flush s.cfg (dword (s.reg 5) 0)) = false) ∧
    (let c := { ready.cfg with dpNanDefault := false }
     let s := { state [(4, 0xFFF8000000000001_7FF0000000000001)] with cfg := c }
     s.cfg.fpDoubleRef = true ∧ s.cfg.dpNanDefault = false ∧ dNaN (dword (s.reg 4) 1) = true ∧
     dSNaN (dword (s.reg 4) 1) = true ∧ dNaN (dword (s.reg 4) 0) = true ∧ dSNaN (dword (s.reg 4) 0) = false) := by
  decide +kernel

/-- A table whose sequence ends in -1.0 does not meet the bound for 1/sqrt(1) (R444); one that ends in 1.0 does. -/
theorem test_root_is_not_negative : rootSequence 0x3F800000 0x40000000 = 0xBF800000 ∧
    rootOk 0x3F800000 0x40000000 = false ∧ rootOk 0x3F800000 0x3F800000 = true := by decide +kernel

/-- A number, an infinity, a NaN in single and in double precision; a zero. -/
theorem witness_FormatConversionsExtendAndRound :
    (let s := state [(3, 0x7F800000_00000000_7F800001_00000000), (4, 0x7FF0000000000000_7FF0000000000001), (5, ones)]
     sExp (word (s.reg 5) 0) ≠ 255 ∧ sExp (word (s.reg 3) 0) = 255 ∧ sFrac (word (s.reg 3) 0) = 0 ∧
     sExp (word (s.reg 3) 2) = 255 ∧ sFrac (word (s.reg 3) 2) ≠ 0 ∧ s.cfg.dpNanDefault = true ∧
     dInf (dword (s.reg 4) 0) = true ∧ dNaN (dword (s.reg 4) 1) = true ∧ dExp (flush s.cfg (dword (s.reg 5) 0)) ≠ 2047 ∧
     dExp (dword (s.reg 5) 0) ≠ 0 ∧ dword (s.reg 6) 0 = 0) := by decide +kernel

/-- A NaN operand, and two operands that are none. -/
theorem witness_DoubleComparesCompareValues :
    (let s := state [(4, 0x7FF0000000000000_7FF0000000000001), (5, ones)]
     s.cfg.hasDpCompare = true ∧ dNaN (dword (s.reg 4) 1) = true ∧ dNaN (dword (s.reg 4) 0) = false ∧
     dNaN (dword (s.reg 5) 0) = false) := by decide +kernel

theorem witness_TestSpecialValueSelectsClasses : ready.cfg.hasDpCompare = true := rfl

/-- A register of 32 bits, one of 128, one that is not defined. -/
theorem witness_SpecialPurposeRegistersAreCopied : wired.spr[(0#7).toNat] = some (.narrow 7) ∧
    wired.spr[(127#7).toNat] = some (.full 9) ∧ wired.spr[(5#7).toNat] = none := by decide +kernel

/-- Every kind of channel `rchcnt`, `rdch` and `wrch` meet. -/
theorem witness_ChannelsCountAndMoveData : 3#7 ≠ 14#7 ∧ 3#7 ≠ 15#7 ∧ wired.chan[(0#7).toNat] = none ∧
    wired.chan[(3#7).toNat] = some ⟨.read, .w32, 1, 0 + 1, 0x0000ABCD_00000000_00000000_00000000 :: []⟩ ∧
    wired.chan[(5#7).toNat] = some ⟨.read, .w128, 2, 0 + 1, 5 :: []⟩ ∧
    wired.chan[(28#7).toNat] = some ⟨.write, .w32, 1, 0 + 1, []⟩ ∧
    wired.chan[(30#7).toNat] = some ⟨.write, .w128, 2, 0 + 1, [5]⟩ ∧ wired.srr0Pending = none := by decide +kernel

theorem witness_ChannelInstructionsWaitForCapacity : 4#7 ≠ 14#7 ∧ 4#7 ≠ 15#7 ∧
    wired.chan[(4#7).toNat] = some ⟨.read, .w128, 1, 0, []⟩ ∧ wired.chan[(29#7).toNat] = some ⟨.write, .w128, 1, 0, [5]⟩ ∧
    wired.run = .running ∧ wired.devices = [] := by decide +kernel

/-- The second clause, with a datum that arrives before the instruction is tried again and room that appears. -/
theorem witness_ChannelInstructionsWaitForCapacity_retry :
    (let s := { wired with wait := some (.read 7 4), devices := [⟨[.supply 4 6], [.condition true]⟩] }
     match s.dropTurn.applyActs s.turn.early with
     | .ok t => decide (t.wait ≠ none) && (match t.applyActs s.turn.late with
       | .ok u => decide (u.run = .running) && decide (u.wait = some (.read 7 4))
       | .error _ => false)
     | .error _ => false) = true ∧
    (let s := { wired with wait := some (.write 29 7), devices := [⟨[.drain 29], []⟩] }
     match s.dropTurn.applyActs s.turn.early with
     | .ok t => decide (t.wait ≠ none) && (match t.applyActs s.turn.late with
       | .ok u => decide (u.run = .running) && decide (u.wait = some (.write 29 7))
       | .error _ => false)
     | .error _ => false) = true := by decide +kernel

/-- The third clause, for both directions. -/
theorem witness_ChannelInstructionsWaitForCapacity_completion :
    (let s := { wired with wait := some (.read 7 5) }
     5#7 ≠ 14#7 ∧ 5#7 ≠ 15#7 ∧ s.chan[(5#7).toNat] = some ⟨.read, .w128, 2, 0 + 1, 5 :: []⟩ ∧ s.run = .running ∧
     s.devices = [] ∧ s.wait = some (.read 7 5)) ∧
    (let s := { wired with wait := some (.write 30 3) }
     30#7 ≠ 14#7 ∧ 30#7 ≠ 15#7 ∧ s.chan[(30#7).toNat] = some ⟨.write, .w128, 2, 0 + 1, [5]⟩ ∧ s.run = .running ∧
     s.devices = [] ∧ s.wait = some (.write 30 3)) := by decide +kernel

/-- Channel 14 for a read and 15 for a write, a channel that is not there, one of the other direction. -/
theorem witness_InvalidChannelsStop : (14#7 = 14#7 ∧ 15#7 = 15#7) ∧ (0#7 ≠ 15#7 ∧ wired.chan[(0#7).toNat] = none) ∧
    (28#7 ≠ 15#7 ∧ wired.chan[(28#7).toNat] = some ⟨.write, .w32, 1, 1, []⟩) ∧
    (3#7 ≠ 14#7 ∧ (wired.chan[(3#7).toNat].map (·.dir)) = some .read) := by decide +kernel

/- One step of what no vector of the spec shows. -/

/-- A waiting channel instruction goes on when a device supplies a datum. -/
theorem test_waiting_read_goes_on : (match step { wired with wait := some (.read 7 4), devices := [⟨[.supply 4 6], []⟩] } with
    | .next t => t.reg 7 == 6 && t.pc == 4 && decide (t.wait = none)
    | _ => false) = true := by decide +kernel

/-- From reset, with nothing placed, no word has been supplied at pc. -/
theorem test_reset_unsupplied : (match step State.reset with
    | .fault f => decide (f = .unsuppliedWord 0)
    | _ => false) = true := by decide +kernel

/-- A device's write of one byte supplies that byte and no other of the quadword. -/
theorem test_device_write : (match State.reset.applyAct (.write 0x10 0xFF 0x0001) with
    | .ok t => decide (t.ls.supplied 0x1F = some 0xFF) && decide (t.ls.supplied 0x1E = none)
    | .error _ => false) = true := by decide +kernel

/-- A conversion whose scale is out of range completes: its register and flags are free. -/
theorem test_conversion_out_of_range : execs (.cflts 3 4 45) (state [(4, 1)]) (fun t => t.pc == 4 && t.reg 4 == 1) = true :=
  by decide +kernel

/-- The interrupt comes before the instruction: pc 0x100 goes into SRR0. -/
theorem test_interrupt : (match step { stateAt 0x100 [] with ie := true, extCond := true } with
    | .next t => t.pc == 0 && t.srr0 == 0x100 && !t.ie
    | _ => false) = true := by decide +kernel

/-- The numbering of the opcode table and that of the decoder agree. -/
theorem test_decodeTableWord : (match decodeTableWord 32 0x18014203 with
    | some i => decide (i = .a 3 4 5)
    | none => false) = true := by decide +kernel

end Sys2Proof.Tests
end

section
/-!
PROOFS. The statements about the state and the step (spec/10_state.md): what a step is made of, said once; the
invariant, the sequence and the flags, each a case for each shape of an instruction's meaning (`exec_shape`).
-/

namespace Sys2Proof.Machine

/- The parts of a step. -/

/-- When an interrupt is due (spec/60_exceptions.md R500, R501). -/
theorem State.interruptDue_iff (s : State) :
    s.interruptDue = true ↔ s.ie = true ∧ s.extCond = true ∧ s.run = .running ∧ s.wait = none := by
  simp [State.interruptDue, and_assoc]

theorem step_of_early {s b : State} (hb : s.dropTurn.applyActs s.turn.early = .ok b) :
    step s = b.runBoundary s.turn.late := by
  rw [step, State.runStep, hb]

theorem State.runBoundary_of_due {b u : State} {late : List DeviceAct} (hd : b.interruptDue = true)
    (hu : b.takeInterrupt.applyActs late = .ok u) : b.runBoundary late = .next u := by
  rw [State.runBoundary, if_pos hd, hu]

theorem State.runBoundary_of_not_due {b u : State} {late : List DeviceAct} (hd : b.interruptDue = false)
    (hu : b.applyActs late = .ok u) : b.runBoundary late = u.runInstruction := by
  rw [State.runBoundary, hd, if_neg Bool.false_ne_true, hu]

/-- A step that answers a next state: the early acts lead to a boundary; there the interrupt was taken and the late
acts followed, or it was not due and an instruction followed the late acts. -/
theorem step_next_cases {s t : State} (e : step s = .next t) :
    ∃ b, s.dropTurn.applyActs s.turn.early = .ok b ∧
      ((b.interruptDue = true ∧ b.takeInterrupt.applyActs s.turn.late = .ok t) ∨
        (b.interruptDue = false ∧ ∃ u, b.applyActs s.turn.late = .ok u ∧ u.runInstruction = .next t)) := by
  match hb : s.dropTurn.applyActs s.turn.early with
  | .error r => rw [step, State.runStep, hb] at e; cases e
  | .ok b =>
    refine ⟨b, rfl, ?_⟩
    rw [step_of_early hb] at e
    match hd : b.interruptDue with
    | true =>
      match hu : b.takeInterrupt.applyActs s.turn.late with
      | .ok u =>
        rw [State.runBoundary_of_due hd hu] at e
        cases e
        exact .inl ⟨rfl, rfl⟩
      | .error r => rw [State.runBoundary, if_pos hd, hu] at e; cases e
    | false =>
      match hu : b.applyActs s.turn.late with
      | .ok u => exact .inr ⟨rfl, u, rfl, State.runBoundary_of_not_due hd hu ▸ e⟩
      | .error r => rw [State.runBoundary, hd, if_neg Bool.false_ne_true, hu] at e; cases e

theorem State.dropTurn_of_no_devices {s : State} (h : s.devices = []) : s.dropTurn = s := by
  rw [State.dropTurn, h, List.tail_nil, ← h]

/-- Without devices a step is the interrupt entry where it is due, and the instruction elsewhere. -/
theorem step_of_no_devices {s : State} (h : s.devices = []) :
    step s = if s.interruptDue then .next s.takeInterrupt else s.runInstruction := by
  have hb : s.dropTurn.applyActs s.turn.early = .ok s := by
    rw [State.dropTurn_of_no_devices h, State.turn_nil h, State.applyActs]
  rw [step_of_early hb, State.turn_nil h]
  rfl

theorem State.Quiet.step_eq {s : State} (h : s.Quiet) : step s = s.runInstruction := by
  have hd : ¬s.interruptDue = true := fun hd => by
    obtain ⟨hie, hext, -, -⟩ := s.interruptDue_iff.mp hd
    simpa [hie, hext] using h.interrupt
  rw [step_of_no_devices h.devices, if_neg hd]

theorem State.start_notMem_turn_late (s : State) : .start ∉ s.turn.late := (cutAtStart_spec _).2

/- The instruction of a step. -/

theorem State.runInstruction_of_stopped {s : State} {ev : StopEvent} (h : s.run = .stopped ev) :
    s.runInstruction = .next s := by
  rw [State.runInstruction, h]

theorem State.runInstruction_of_decode {s : State} {w : Word} {i : Instr} (hr : s.run = .running) (hw : s.wait = none)
    (hf : s.fetch.1 = some w) (hi : decode w = .ok i) : s.runInstruction = exec i s.fetch.2 := by
  simp only [State.runInstruction, hr, hw, hf, hi]

/-- When the instruction of a step answers a next state: the SPU is stopped and nothing runs, a channel instruction
waits and is tried again, or the word fetched decodes to an instruction that answers it. -/
theorem State.runInstruction_next_cases {s t : State} (e : s.runInstruction = .next t) :
    (∃ ev, s.run = .stopped ev ∧ t = s) ∨
    (∃ w, s.run = .running ∧ s.wait = some w ∧ t = s.retry w) ∨
    (∃ w i, s.run = .running ∧ s.wait = none ∧ s.fetch.1 = some w ∧ decode w = .ok i ∧ exec i s.fetch.2 = .next t) := by
  unfold State.runInstruction at e
  split at e
  next ev hr => cases e; exact .inl ⟨ev, hr, rfl⟩
  next hr =>
    split at e
    next w hw => cases e; exact .inr (.inl ⟨w, hr, hw, rfl⟩)
    next hw =>
      split at e
      next => cases e
      next w hf =>
        split at e
        next i hi => exact .inr (.inr ⟨w, i, hr, hw, hf, hi, e⟩)
        next => cases e

/-- A fetch changes nothing but the count of free values. -/
theorem State.fetch_state (s : State) : s.fetch.2 = s ∨ s.fetch.2 = s.takeFree := (s.choose_spec _ _).2

/-- A word with one value to fetch is the one that stands in local storage. -/
theorem State.fetch_settled (s : State) (h : fetchOlder s.pc.toNat s.fetchHist = []) :
    s.fetch = (s.ls.wordAt s.pc.toNat, s) := by
  rw [State.fetch, h, State.choose]

/- The next address and the flags that an instruction leaves. -/

@[simp] theorem State.nextPc_takeFree (s : State) : s.takeFree.nextPc = s.nextPc := rfl
@[simp] theorem State.nextPc_setReg (s : State) (r : Reg) (v : Quad) : (s.setReg r v).nextPc = s.nextPc := rfl
@[simp] theorem State.nextPc_addFlags (s : State) (flags : Quad) : (s.addFlags flags).nextPc = s.nextPc := rfl
@[simp] theorem State.nextPc_store (s : State) (ea : Word) (v : Quad) : (s.store ea v).nextPc = s.nextPc := by
  simp [State.nextPc]
@[simp] theorem State.nextPc_dataSync (s : State) : s.dataSync.nextPc = s.nextPc := rfl
@[simp] theorem State.nextPc_fetchSync (s : State) : s.fetchSync.nextPc = s.nextPc := rfl
@[simp] theorem State.nextPc_syncC (s : State) : s.syncC.nextPc = s.nextPc := by simp [State.nextPc]
@[simp] theorem State.nextPc_writeSpr (s : State) (sa : BitVec 7) (v : Quad) :
    (s.writeSpr sa v).nextPc = s.nextPc := by simp [State.nextPc]

@[simp] theorem State.readChannel_fpscr (s : State) (rt : Reg) (ca : BitVec 7) :
    (s.readChannel rt ca).fpscr = s.fpscr := by
  rcases s.readChannel_cases rt ca with ⟨-, e⟩ | ⟨-, e⟩ | ⟨c, n, d, ds, -, -, -, -, -, -, e⟩ | ⟨c, -, -, -, -, -, e⟩ <;>
    simp [e]

@[simp] theorem State.writeChannel_fpscr (s : State) (ca : BitVec 7) (rt : Reg) :
    (s.writeChannel ca rt).fpscr = s.fpscr := by
  rcases s.writeChannel_cases ca rt with ⟨-, e⟩ | ⟨-, e⟩ | ⟨c, n, -, -, -, -, -, e⟩ | ⟨c, -, -, -, -, -, e⟩ <;>
    simp [e]

/- The invariant. -/

theorem State.Inv.retry {s : State} (h : s.Inv) (hr : s.run = .running) (w : ChannelWait) : (s.retry w).Inv := by
  cases w with
  | read rt ca => exact h.readChannel rt ca hr
  | write ca rt => exact h.writeChannel ca rt hr

theorem State.Inv.fetch {s : State} (h : s.Inv) : s.fetch.2.Inv := by
  rcases s.fetch_state with e | e <;> rw [e]
  · exact h
  · exact h.takeFree

theorem State.fetch_run (s : State) : s.fetch.2.run = s.run := by
  rcases s.fetch_state with e | e <;> rw [e]
  rfl

/-- A state that is `s` but for a free value has the invariant of `s`. -/
theorem State.Inv.orTakeFree {s b : State} (h : s.Inv) (hb : b = s ∨ b = s.takeFree) : b.Inv := by
  rcases hb with rfl | rfl
  · exact h
  · exact h.takeFree

/-- What an instruction of any shape leaves of a running SPU has the invariant. -/
theorem Shape.keeps_inv {i : Instr} {s t : State} {r : Result} (hs : Shape i s r) (h : s.Inv)
    (hr : s.run = .running) (e : r = .next t) : t.Inv := by
  cases hs with
  | write v hb _ => cases e; exact ((h.orTakeFree hb).setReg _ _).advance
  | writeFlags v flags hb _ hf =>
    cases e
    have hflags : flags &&& ~~~fpscrMask = 0#128 := and_not_trans hf (flagMask_fpscrMask i)
    exact (((h.orTakeFree hb).addFlags flags hflags).setReg _ _).advance
  | store ea v _ => cases e; exact (h.store ea v).advance
  | jump pc ie hb hp _ _ =>
    cases e
    rcases hb with rfl | rfl | ⟨rt, v, -, rfl⟩
    · exact (h.setPc hp).setIe ie
    · exact (h.takeFree.setPc (pc := pc) hp).setIe ie
    · exact ((h.setReg rt v).setPc (pc := pc) hp).setIe ie
  | stop ev hb =>
    cases e
    rcases hb with ⟨rfl, -⟩ | rfl
    · exact h.stopWith ev
    · exact h.advance.stopWith ev
  | sync hb =>
    cases e
    rcases hb with rfl | rfl | rfl
    · exact h.syncC.advance
    · exact h.fetchSync.advance
    · exact h.dataSync.advance
  | setFpscr v _ => cases e; exact (h.setFpscr v).advance
  | setSpr sa v => cases e; exact (h.writeSpr sa v).advance
  | readChannel ca _ _ => cases e; exact h.readChannel _ ca hr
  | writeChannel ca rt _ => cases e; exact h.writeChannel ca rt hr
  | fault f => cases e

theorem State.Inv.runInstruction {s t : State} (h : s.Inv) (e : s.runInstruction = .next t) : t.Inv := by
  rcases State.runInstruction_next_cases e with ⟨-, -, rfl⟩ | ⟨w, hr, -, rfl⟩ | ⟨-, i, hr, -, -, -, hi⟩
  · exact h
  · exact h.retry hr w
  · exact (exec_shape i _).keeps_inv h.fetch (s.fetch_run.trans hr) hi

/-- Settles O6: the devices' acts, the interrupt entry and the instruction each keep the invariant. -/
theorem stepKeepsTheInvariant : Obligations.StepKeepsTheInvariant := by
  intro s t h e
  obtain ⟨b, hb, ⟨-, ht⟩ | ⟨-, u, hu, ht⟩⟩ := step_next_cases e
  · exact (h.dropTurn.applyActs _ hb).takeInterrupt.applyActs _ ht
  · exact ((h.dropTurn.applyActs _ hb).applyActs _ hu).runInstruction ht

/- All instructions. -/

/-- Settles O13, by the shape of the instruction's meaning: those that may end elsewhere are ruled out. -/
theorem otherInstructionsGoOnInSequence : Obligations.OtherInstructionsGoOnInSequence := by
  intro i s t hi e
  change t.pc = s.nextPc
  have hs := exec_shape i s
  rw [e] at hs
  generalize hr : Host.Outcome.next t = r at hs
  cases hs with
  | write v hb _ => cases hr; rcases hb with rfl | rfl <;> simp
  | writeFlags v flags hb _ _ => cases hr; rcases hb with rfl | rfl <;> simp
  | store ea v _ => cases hr; simp
  | jump pc ie _ _ hseq _ => cases hr; exact hseq hi
  | stop ev hb =>
    cases hr
    rcases hb with ⟨-, hleave⟩ | rfl
    · simp [hi] at hleave
    · simp
  | sync hb => cases hr; rcases hb with rfl | rfl | rfl <;> simp
  | setFpscr v _ => cases hr; rfl
  | setSpr sa v => cases hr; simp
  | readChannel ca _ hleave => simp [hi] at hleave
  | writeChannel ca rt hleave => simp [hi] at hleave
  | fault f => cases hr

/-- FPSCR as it was has had no flag added. -/
theorem no_flags_added {v w : Quad} (h : v = w) (mask : Quad) :
    ∃ flags, v = w ||| flags ∧ flags &&& ~~~mask = 0#128 :=
  ⟨0#128, by simpa using h, BitVec.zero_and⟩

/-- Settles O15, by the shape of the instruction's meaning: one that ORs flags into FPSCR, or one that leaves FPSCR
as it is; `fscrwr` alone has another. -/
theorem flagsAreStickyAndOfTheTables : Obligations.FlagsAreStickyAndOfTheTables := by
  intro i s t hi e
  have hs := exec_shape i s
  rw [e] at hs
  generalize hr : Host.Outcome.next t = r at hs
  cases hs with
  | writeFlags v flags hb _ hf =>
    cases hr
    refine ⟨flags, ?_, hf⟩
    rcases hb with rfl | rfl <;> simp
  | setFpscr v hfscrwr =>
    obtain ⟨ra, rt, h⟩ := hfscrwr
    exact absurd h (hi ra rt)
  | write v hb _ => cases hr; exact no_flags_added (by rcases hb with rfl | rfl <;> simp) _
  | store ea v _ => cases hr; exact no_flags_added (by simp) _
  | jump pc ie hb _ _ _ => cases hr; exact no_flags_added (by rcases hb with rfl | rfl | ⟨_, _, -, rfl⟩ <;> rfl) _
  | stop ev hb => cases hr; exact no_flags_added (by rcases hb with ⟨rfl, -⟩ | rfl <;> simp) _
  | sync hb => cases hr; exact no_flags_added (by rcases hb with rfl | rfl | rfl <;> simp) _
  | setSpr sa v => cases hr; exact no_flags_added (by simp) _
  | readChannel ca _ _ => cases hr; exact no_flags_added (by simp) _
  | writeChannel ca rt _ => cases hr; exact no_flags_added (by simp) _
  | fault f => cases hr

/- The step. -/

/-- Settles O4: without devices the boundary is passed over and the four bytes are the fetched word; with them, the
boundary is that of `State.runBoundary`. -/
theorem stepRunsTheDecodedInstruction : Obligations.StepRunsTheDecodedInstruction := by
  constructor
  · intro s i b0 b1 b2 b3 hq hold h0 h1 h2 h3 hi
    have hf : s.fetch = (some (wordOfBytes b0 b1 b2 b3), s) := by
      rw [s.fetch_settled hold, Memory.wordAt_of_supplied h0 h1 h2 h3]
    rw [hq.step_eq, State.runInstruction_of_decode hq.run hq.wait (congrArg Prod.fst hf) hi, hf]
  · intro s t u w i hearly hd hlate hr hw hf hi
    rw [step_of_early hearly, State.runBoundary_of_not_due hd hlate, State.runInstruction_of_decode hr hw hf hi]

/-- Settles O7: local storage is empty, no channel is implemented, and LSLR is `2^18 - 1`. -/
theorem resetHasTheInvariant : Obligations.ResetHasTheInvariant where
  memory := rfl
  inside := fun _ hc => absurd hc List.not_mem_nil
  lslr := ⟨18, by decide, by decide, by decide, by decide⟩
  pcAligned := by decide
  pcInside := by decide
  fpscr := by decide
  wait := fun h => absurd rfl h
  channels := fun ca c hc => by simp [State.reset] at hc

/-- Settles O8: the fields of `State.reset`. -/
theorem resetState : Obligations.ResetState := by
  refine ⟨rfl, rfl, rfl, rfl, rfl, rfl, fun r => ?_, rfl, rfl, rfl, rfl, fun _ => rfl, fun sa => ?_, fun ca => ?_, rfl⟩
  · simp [State.reg, State.reset]
  · simp [State.reset]
  · simp [State.reset]

/-- Settles O9: the interrupt is not due in a stopped SPU, and its instruction is none. -/
theorem stoppedExecutesNothing : Obligations.StoppedExecutesNothing := by
  intro s ev hr hdev
  have hd : ¬s.interruptDue = true := fun hd => by
    obtain ⟨-, -, hrun, -⟩ := s.interruptDue_iff.mp hd
    rw [hr] at hrun
    cases hrun
  rw [step_of_no_devices hdev, if_neg hd, State.runInstruction_of_stopped hr]

/-- Settles O11: the boundary of a step without devices, the place of the boundary among the devices' acts, the
entry at it, and that no start stands behind it. -/
theorem interruptIsSampledAtEveryBoundary : Obligations.InterruptIsSampledAtEveryBoundary := by
  refine ⟨?_, fun s d ds => State.turn_spec, ?_, ?_⟩
  · intro s hdev hr hw
    have hdue : s.interruptDue = true ↔ s.ie = true ∧ s.extCond = true := by simp [s.interruptDue_iff, hr, hw]
    rw [step_of_no_devices hdev]
    exact ⟨fun h => if_pos (hdue.mpr h), fun h => if_neg (mt hdue.mp h)⟩
  · intro s t u hearly hr hw hie hext hlate
    rw [step_of_early hearly, State.runBoundary_of_due (t.interruptDue_iff.mpr ⟨hie, hext, hr, hw⟩) hlate]
  · intro s t u _ hlate hr
    exact State.applyActs_running _ hlate s.start_notMem_turn_late hr

end Sys2Proof.Machine
end

section
/-!
PROOFS. The statements about storage as the SPU sees it (spec/20_memory.md): which values a load or a fetch may
return after a write, and after the synchronisation that makes the write visible.
-/

namespace Sys2Proof.Machine

/- What the visible values depend on: local storage and the histories alone. -/

@[simp] theorem State.loadCandidates_advance (s : State) (a : Nat) :
    s.advance.loadCandidates a = s.loadCandidates a := rfl
@[simp] theorem State.fetchCandidates_advance (s : State) (a : Nat) :
    s.advance.fetchCandidates a = s.fetchCandidates a := rfl

/-- A sync point leaves a load one value, the one local storage holds (R73). -/
@[simp] theorem State.loadCandidates_dataSync (s : State) (a : Nat) : s.dataSync.loadCandidates a = [s.ls.quadAt a] :=
  rfl

/-- A sync point that is no fetch sync point leaves a fetch the words it had (R68, R73). -/
@[simp] theorem State.fetchCandidates_dataSync (s : State) (a : Nat) :
    s.dataSync.fetchCandidates a = s.fetchCandidates a := rfl

/-- A fetch sync point leaves a fetch one word, the one local storage holds (R69, R73). -/
@[simp] theorem State.fetchCandidates_fetchSync (s : State) (a : Nat) :
    s.fetchSync.fetchCandidates a = [s.ls.wordAt a] := rfl
@[simp] theorem State.fetchCandidates_syncC (s : State) (a : Nat) : s.syncC.fetchCandidates a = [s.ls.wordAt a] := by
  simp [State.syncC]

/-- The word that stands in local storage is one a fetch may return. -/
theorem State.wordAt_mem_fetchCandidates (s : State) (a : Nat) : s.ls.wordAt a ∈ s.fetchCandidates a :=
  List.mem_cons_self

/- The two instructions that synchronise. -/

theorem exec_dsync_eq (s : State) : exec .dsync s = .next s.dataSync.advance := rfl

/-- Both forms of `sync` leave a fetch the word that stands in local storage. -/
theorem exec_sync_fetchCandidates (s : State) (c : Bool) (a : Nat) :
    ∃ u, exec (.sync c) s = .next u ∧ u.fetchCandidates a = [s.ls.wordAt a] := by
  refine ⟨_, rfl, ?_⟩
  cases c <;> simp

/- The writes. -/

/-- A device's write that the model takes is performed in the quadword it names. -/
theorem State.applyAct_write_ok {s t : State} {a : Nat} {v : Quad} {bytes : BitVec 16}
    (e : s.applyAct (.write a v bytes) = .ok t) :
    t = s.performWrite .external a (s.ls.writeSelected a bytes v 16) := by
  rw [State.applyAct] at e
  split at e
  next => exact (Except.ok.inj e).symm
  next => cases e

theorem exec_stqx_next {s t : State} {rt ra rb : Reg} (e : exec (.stqx rt ra rb) s = .next t) :
    t = (s.store (eaX (s.reg ra) (s.reg rb)) (s.reg rt)).advance := by
  cases e
  rfl

/-- A store leaves every word that could be fetched fetchable. -/
theorem State.fetchCandidates_store (s : State) (ea : Word) (v : Quad) {b : Nat} (hb : b % 4 = 0) :
    ∀ w ∈ s.fetchCandidates b, w ∈ (s.store ea v).fetchCandidates b :=
  s.fetchCandidates_performWrite .spu _ b _ (lsa_aligned s.lslr ea) hb
    fun c hc => s.ls.supplied_writeQuad_out _ v c hc

/- A load after the SPU's own store. -/

/-- The value a load returns does not depend on pc. -/
theorem State.load_advance_fst (s : State) (ea : Word) : (s.advance.load ea).1 = (s.load ea).1 := by
  simp only [State.load, State.choose, State.advance_lslr, State.advance_ls, State.advance_dataHist, State.advance_free]
  split <;> rfl

/-- The target of a load holds the value the load returned. -/
theorem State.loadTo_reg (s : State) (rt : Reg) (ea : Word) :
    ∃ u, s.loadTo rt ea = .next u ∧ u.reg rt = (s.load ea).1 :=
  ⟨_, rfl, by simp⟩

/-- Settles O17: each load is `loadTo` of its address, whatever may be seen there; behind the SPU's own store nothing
older than the value stored may be seen (`State.load_store`). -/
theorem loadsReturnAllowedValuesAndOwnStores : Obligations.LoadsReturnAllowedValuesAndOwnStores := by
  constructor
  · intro s rt ra rb i10 i16
    exact ⟨.of_loadTo (exec_lqd rt ra i10 s), .of_loadTo (exec_lqx rt ra rb s), .of_loadTo (exec_lqa rt i16 s),
      .of_loadTo (exec_lqr rt i16 s)⟩
  · intro s t rt rt' ra rb e
    obtain ⟨u, hu, hv⟩ := t.loadTo_reg rt' (eaX (t.reg ra) (t.reg rb))
    refine ⟨u, hu, hv.trans ?_⟩
    obtain rfl := exec_stqx_next e
    rw [State.load_advance_fst, State.advance_reg, State.advance_reg, State.store_reg, State.store_reg, State.load_store]

/-- After a device's write a load may return what it might before, and after `dsync` the quadword alone that stands in
local storage. -/
theorem State.device_write_visibility {s t : State} {a : Nat} {v : Quad} {bytes : BitVec 16}
    (e : s.applyAct (.write a v bytes) = .ok t) :
    (∀ q ∈ s.loadCandidates a, q ∈ t.loadCandidates a) ∧
    ∃ u, exec .dsync t = .next u ∧ ∃ q, u.loadCandidates a = [q] ∧
      ∀ j < 16, byte q j = if bytes.getLsbD (15 - j) then byte v j else s.ls.byteAt (a + j) := by
  obtain rfl := State.applyAct_write_ok e
  constructor
  · intro q hq
    rw [State.loadCandidates_external]
    exact List.mem_cons_of_mem _ hq
  · exact ⟨_, exec_dsync_eq _, _, by simp, fun j => s.ls.byte_quadAt_writeSelected a j bytes v⟩

/-- Settles O19: a write puts the old values into the histories, `dsync` empties that of the loads and `sync` that of
the fetches. -/
theorem synchronisationShowsEarlierWrites : Obligations.SynchronisationShowsEarlierWrites := by
  constructor
  · intro s t a v bytes e
    exact State.device_write_visibility e
  · intro s t rt ra rb c a ha e
    obtain rfl := exec_stqx_next e
    refine ⟨?_, State.wordAt_mem_fetchCandidates _ a, ?_, ⟨_, exec_dsync_eq _, by simp⟩, exec_sync_fetchCandidates _ c a⟩
    · rw [State.fetchCandidates_advance]
      exact s.fetchCandidates_store _ _ ha
    · rintro j hj rfl
      rw [State.advance_ls, State.store_ls, Memory.wordAt_writeQuad _ _ _ _ hj]

end Sys2Proof.Machine
end

section
/-!
PROOFS. The statements about the encoding (spec/30_encoding.md): decoding takes back what encoding wrote, the rows of
the opcode table exclude each other, and what stops at a word that is no instruction.
-/

namespace Sys2Proof

/- The row of an instruction. -/

/-- Row `i.ctorIdx` of the table is the row of `i`, the table being in the order of the constructors (R106). What is
left of the round trip is that the word of `i` begins with that row's opcode and that the row's field readers read back
the operands of `i`. -/
theorem decode_encode_of_row {i : Instr} {r : Row} (hr : rows[i.ctorIdx]? = some r)
    (hop : (encode i).toNat >>> (32 - r.bits) = r.opcode) (hb : r.build (encode i) = i) : decode (encode i) = .ok i :=
  (decode_of_row r _ (List.mem_of_getElem? hr) ((r.matches_iff _).mpr hop)).trans (congrArg _ hb)

/-- Settles O1, a case for each layout of an instruction word (R91 to R101): a word of the layout begins with its
opcode, and the layout's fields read back. -/
theorem decodeOfEncodeIsTheInstruction : Obligations.DecodeOfEncodeIsTheInstruction := by
  intro i
  cases i with
  | lqx | stqx | cbd | cbx | chd | chx | cwd | cwx | cdd | cdx | ah | a | sfh | sf | addx | cg | cgx | sfx | bg
  | bgx | mpy | mpyu | mpyh | mpys | mpyhh | mpyhha | mpyhhu | mpyhhau | clz | cntb | fsmb | fsmh | fsm | gbb | gbh
  | gb | avgb | absdb | sumb | xsbh | xshw | xswd | and | andc | or | orc | orx | xor | nand | nor | eqv | shlh
  | shlhi | shl | shli | shlqbi | shlqbii | shlqby | shlqbyi | shlqbybi | roth | rothi | rot | roti | rotqby
  | rotqbyi | rotqbybi | rotqbi | rotqbii | rothm | rothmi | rotm | rotmi | rotqmby | rotqmbyi | rotqmbybi | rotqmbi
  | rotqmbii | rotmah | rotmahi | rotma | rotmai | heq | hgt | hlgt | ceqb | ceqh | ceq | cgtb | cgth | cgt | clgtb
  | clgth | clgt | fa | dfa | fs | dfs | fm | dfm | dfma | dfnms | dfms | dfnma | frest | frsqest | fi | frds | fesd
  | dfceq | dfcmeq | dfcgt | dfcmgt | dftsv | fceq | fcmeq | fcgt | fcmgt | fscrwr | fscrrd | stopd | lnop | nop
  | dsync | mfspr | mtspr | rdch | rchcnt | wrch =>
    exact decode_encode_of_row rfl (formRR_op ..) (by simp [encode])
  | mpya | selb | shufb | fma | fnms | fms =>
    exact decode_encode_of_row rfl (formRRR_op ..) (by simp [encode])
  | csflt | cflts | cuflt | cfltu =>
    exact decode_encode_of_row rfl (formRI8_op ..) (by simp [encode])
  | lqd | stqd | ahi | ai | sfhi | sfi | mpyi | mpyui | andbi | andhi | andi | orbi | orhi | ori | xorbi | xorhi
  | xori | heqi | hgti | hlgti | ceqbi | ceqhi | ceqi | cgtbi | cgthi | cgti | clgtbi | clgthi | clgti =>
    exact decode_encode_of_row rfl (formRI10_op ..) (by simp [encode])
  | lqa | lqr | stqa | stqr | ilh | ilhu | il | iohl | fsmbi | br | bra | brsl | brasl | brnz | brz | brhnz
  | brhz =>
    exact decode_encode_of_row rfl (formRI16_op ..) (by simp [encode])
  | ila =>
    exact decode_encode_of_row rfl (formRI18_op ..) (by simp [encode])
  | bi | iret | bisled | bisl | biz | binz | bihz | bihnz =>
    exact decode_encode_of_row rfl (formBI_op ..) (by simp [encode])
  | sync =>
    exact decode_encode_of_row rfl (formSYNC_op ..) (by simp [encode])
  | stop =>
    exact decode_encode_of_row rfl (formSTOP_op ..) (by simp [encode])
  | hbr =>
    exact decode_encode_of_row rfl (formHBR_op ..) (by simp [encode])
  | hbra | hbrr =>
    exact decode_encode_of_row rfl (formHBRA_op ..) (by simp [encode])

/-- What `encode` writes for an instruction decodes to it. -/
theorem decode_of_encode_eq {i : Instr} {w : Word} (h : encode i = w) : decode w = .ok i :=
  h ▸ decodeOfEncodeIsTheInstruction i

/-- Settles O3: each word is the encoding of its instruction. -/
theorem writtenOutWordsDecode : Obligations.WrittenOutWordsDecode := by
  refine ⟨?_, ?_, ?_, ?_, ?_, ?_, ?_, ?_, ?_⟩ <;> exact decode_of_encode_eq (by decide)

/- The rows exclude each other. -/

/-- A word that a row matches, no row further down the table matches: their opcodes would begin alike. -/
theorem not_matches_of_later {w : Word} {i j : Nat} {r q : Row} (hij : i < j) (hi : rows[i]? = some r)
    (hj : rows[j]? = some q) (hr : r.matches w = true) : ¬q.matches w = true := by
  intro hq
  have hr32 := (rows_bits r (List.mem_of_getElem? hi)).2
  have hq32 := (rows_bits q (List.mem_of_getElem? hj)).2
  obtain ⟨hil, rfl⟩ := List.getElem?_eq_some_iff.mp hi
  obtain ⟨hjl, rfl⟩ := List.getElem?_eq_some_iff.mp hj
  exact List.pairwise_iff_getElem.mp rows_no_common_word i j hil hjl hij
    (Row.common_word _ _ w hr hq (by omega) (by omega))

/-- Settles O2: of two positions that differ one is further down. -/
theorem noWordMatchesTwoRows : Obligations.NoWordMatchesTwoRows := by
  intro w i j r q hi hj hr hq
  rcases Nat.lt_trichotomy i j with hij | hij | hij
  · exact absurd hq (not_matches_of_later hij hi hj hr)
  · exact hij
  · exact absurd hr (not_matches_of_later hij hj hi hq)

end Sys2Proof

namespace Sys2Proof.Machine

/- Words that are no instruction. -/

theorem State.runInstruction_of_unassigned {s : State} {w : Word} {e : DecodeError} (hr : s.run = .running)
    (hw : s.wait = none) (hf : s.fetch.1 = some w) (he : decode w = .error e) :
    s.runInstruction = .fault (.illegalInstruction s.pc w) := by
  simp only [State.runInstruction, hr, hw, hf, he]

theorem State.runInstruction_of_unsupplied {s : State} (hr : s.run = .running) (hw : s.wait = none)
    (hf : s.fetch.1 = none) : s.runInstruction = .fault (.unsuppliedWord s.pc) := by
  simp only [State.runInstruction, hr, hw, hf]

/-- Where the configuration lacks the five optional instructions their words are unassigned (R107). -/
theorem State.ifDpCompare_of_lacking {s : State} (h : s.cfg.hasDpCompare = false) (i : Instr) (r : Result) :
    s.ifDpCompare i r = .fault (.illegalInstruction s.pc (encode i)) := by
  simp [State.ifDpCompare, h]

/-- Settles O5: the word fetched is the one in local storage, and each optional instruction first asks the
configuration. -/
theorem unassignedWordsAreIllegal : Obligations.UnassignedWordsAreIllegal := by
  refine ⟨?_, ?_, ?_⟩
  · intro s w e hq hold hw he
    rw [hq.step_eq]
    exact State.runInstruction_of_unassigned hq.run hq.wait (by rw [s.fetch_settled hold, hw]) he
  · intro s j hq hold hj hb
    rw [hq.step_eq]
    exact State.runInstruction_of_unsupplied hq.run hq.wait
      (by rw [s.fetch_settled hold, Memory.wordAt_none hj hb])
  · intro s rt ra rb i7 h i hi
    simp only [List.mem_cons, List.not_mem_nil, or_false] at hi
    rcases hi with rfl | rfl | rfl | rfl | rfl <;> exact State.ifDpCompare_of_lacking h ..

/- What an instruction leaves unchanged. -/

/-- From `s` to `t` what no instruction but a store or an indirect branch changes is kept: every register but `rt`,
local storage, what `SameEnv` holds, and IE. -/
structure KeptBut (rt : Option Reg) (s t : State) : Prop where
  regs : ∀ r, rt ≠ some r → t.reg r = s.reg r
  ls : t.ls = s.ls
  env : SameEnv s t
  ie : t.ie = s.ie

theorem SameEnv.trans {s t u : State} (h : SameEnv s t) (h' : SameEnv t u) : SameEnv s u :=
  ⟨h'.lslr.trans h.lslr, h'.extCond.trans h.extCond, h'.devices.trans h.devices, h'.cfg.trans h.cfg⟩

section
variable {rt : Option Reg} {s t u : State}

theorem KeptBut.trans (h : KeptBut rt s t) (h' : KeptBut rt t u) : KeptBut rt s u :=
  ⟨fun r hr => (h'.regs r hr).trans (h.regs r hr), h'.ls.trans h.ls, h.env.trans h'.env, h'.ie.trans h.ie⟩

/-- An update that touches no register, nor anything else of `KeptBut`. -/
theorem KeptBut.of_eq (gpr : t.gpr = s.gpr) (ls : t.ls = s.ls) (lslr : t.lslr = s.lslr)
    (extCond : t.extCond = s.extCond) (devices : t.devices = s.devices) (cfg : t.cfg = s.cfg) (ie : t.ie = s.ie) :
    KeptBut rt s t :=
  ⟨fun r _ => State.reg_congr gpr r, ls, ⟨lslr, extCond, devices, cfg⟩, ie⟩

theorem keptBut_setReg (s : State) (r : Reg) (v : Quad) : KeptBut (some r) s (s.setReg r v) :=
  ⟨fun r' hr => s.reg_setReg_ne r r' v fun e => hr (congrArg some e.symm), rfl, ⟨rfl, rfl, rfl, rfl⟩, rfl⟩

theorem keptBut_advance (s : State) : KeptBut rt s s.advance := .of_eq rfl rfl rfl rfl rfl rfl rfl
theorem keptBut_channelDone (s : State) : KeptBut rt s s.channelDone := .of_eq rfl rfl rfl rfl rfl rfl rfl
theorem keptBut_block (s : State) (w : ChannelWait) : KeptBut rt s (s.block w) := .of_eq rfl rfl rfl rfl rfl rfl rfl
theorem keptBut_addFlags (s : State) (flags : Quad) : KeptBut rt s (s.addFlags flags) :=
  .of_eq rfl rfl rfl rfl rfl rfl rfl
theorem keptBut_dataSync (s : State) : KeptBut rt s s.dataSync := .of_eq rfl rfl rfl rfl rfl rfl rfl
theorem keptBut_fetchSync (s : State) : KeptBut rt s s.fetchSync := .of_eq rfl rfl rfl rfl rfl rfl rfl
theorem keptBut_setChan (s : State) (chan : Vector (Option Channel) 128) : KeptBut rt s { s with chan := chan } :=
  .of_eq rfl rfl rfl rfl rfl rfl rfl

theorem keptBut_syncC (s : State) : KeptBut rt s s.syncC := by apply KeptBut.of_eq <;> simp
theorem keptBut_stopWith (s : State) (ev : StopEvent) : KeptBut rt s (s.stopWith ev) := by
  apply KeptBut.of_eq <;> simp
theorem keptBut_sawSrr0 (s : State) : KeptBut rt s s.sawSrr0 := by apply KeptBut.of_eq <;> simp
theorem keptBut_writeSpr (s : State) (sa : BitVec 7) (v : Quad) : KeptBut rt s (s.writeSpr sa v) := by
  apply KeptBut.of_eq <;> simp

theorem keptBut_orTakeFree (h : t = s ∨ t = s.takeFree) : KeptBut rt s t := by
  rcases h with rfl | rfl <;> exact .of_eq rfl rfl rfl rfl rfl rfl rfl

theorem keptBut_readChannel (s : State) (rt : Reg) (ca : BitVec 7) : KeptBut (some rt) s (s.readChannel rt ca) := by
  rcases s.readChannel_cases rt ca with ⟨-, e⟩ | ⟨-, e⟩ | ⟨c, n, d, ds, -, -, -, -, -, -, e⟩ | ⟨c, -, -, -, -, -, e⟩ <;>
    rw [e]
  · exact ((keptBut_sawSrr0 s).trans (keptBut_setReg _ _ _)).trans (keptBut_channelDone _)
  · exact keptBut_stopWith s _
  · exact ((keptBut_setChan s _).trans (keptBut_setReg _ _ _)).trans (keptBut_channelDone _)
  · exact keptBut_block s _

theorem keptBut_writeChannel (s : State) (ca : BitVec 7) (r : Reg) : KeptBut rt s (s.writeChannel ca r) := by
  rcases s.writeChannel_cases ca r with ⟨-, e⟩ | ⟨-, e⟩ | ⟨c, n, -, -, -, -, -, e⟩ | ⟨c, -, -, -, -, -, e⟩ <;> rw [e]
  · exact .of_eq rfl rfl rfl rfl rfl rfl rfl
  · exact keptBut_stopWith s _
  · exact (keptBut_setChan s _).trans (keptBut_channelDone _)
  · exact keptBut_block s _

end

/-- What the statement says of an instruction that leads from `s` to `t`. -/
structure InstrFrame (i : Instr) (s t : State) : Prop where
  regs : ∀ r, i.target ≠ some r → t.reg r = s.reg r
  bytes : i.stores = false → SameBytes s t
  env : SameEnv s t
  ie : t.ie ≠ s.ie → ∃ d e, i.features = some (d, e) ∧ d ≠ e ∧ t.ie = e

theorem KeptBut.frame {i : Instr} {s t : State} (h : KeptBut i.target s t) : InstrFrame i s t :=
  ⟨h.regs, fun _ a => by rw [h.ls], h.env, fun hie => absurd h.ie hie⟩

/-- The frame of an instruction of any shape. -/
theorem Shape.frame {i : Instr} {s t : State} {r : Result} (hs : Shape i s r) (e : r = .next t) : InstrFrame i s t := by
  cases hs with
  | write v hb ht =>
    cases e
    exact KeptBut.frame (ht ▸ ((keptBut_orTakeFree hb).trans (keptBut_setReg _ _ v)).trans (keptBut_advance _))
  | writeFlags v flags hb ht _ =>
    cases e
    exact KeptBut.frame (ht ▸ (((keptBut_orTakeFree hb).trans (keptBut_addFlags _ flags)).trans
      (keptBut_setReg _ _ v)).trans (keptBut_advance _))
  | store ea v hstore =>
    cases e
    refine ⟨fun r _ => by simp, fun hn => by simp [hstore] at hn, ⟨?_, ?_, ?_, ?_⟩, fun hie => absurd ?_ hie⟩ <;> simp
  | @jump b pc ie hb _ _ hie =>
    cases e
    have hk : KeptBut i.target s b := by
      rcases hb with hb | hb | ⟨rt, v, ht, rfl⟩
      · exact keptBut_orTakeFree (.inl hb)
      · exact keptBut_orTakeFree (.inr hb)
      · exact ht ▸ keptBut_setReg s rt v
    exact ⟨hk.regs, fun _ a => by rw [← hk.ls], ⟨hk.env.lslr, hk.env.extCond, hk.env.devices, hk.env.cfg⟩,
      fun hne => hie.resolve_left hne⟩
  | stop ev hb =>
    cases e
    rcases hb with ⟨rfl, -⟩ | rfl
    · exact (keptBut_stopWith _ ev).frame
    · exact ((keptBut_advance s).trans (keptBut_stopWith _ ev)).frame
  | sync hb =>
    cases e
    rcases hb with rfl | rfl | rfl
    · exact ((keptBut_syncC s).trans (keptBut_advance _)).frame
    · exact ((keptBut_fetchSync s).trans (keptBut_advance _)).frame
    · exact ((keptBut_dataSync s).trans (keptBut_advance _)).frame
  | setFpscr v _ => cases e; exact KeptBut.frame (.of_eq rfl rfl rfl rfl rfl rfl rfl)
  | setSpr sa v => cases e; exact ((keptBut_writeSpr s sa v).trans (keptBut_advance _)).frame
  | readChannel ca ht _ => cases e; exact KeptBut.frame (ht ▸ keptBut_readChannel s _ ca)
  | writeChannel ca rt _ => cases e; exact (keptBut_writeChannel s ca rt).frame
  | fault f => cases e

/-- Settles O14, by the shape of the instruction's meaning. -/
theorem frameOfEveryInstruction : Obligations.FrameOfEveryInstruction := by
  intro i s t e
  obtain ⟨hregs, hbytes, henv, hie⟩ := (exec_shape i s).frame e
  exact ⟨hregs, hbytes, henv, hie⟩

end Sys2Proof.Machine
end

section
/-!
PROOFS. The statements about the loads, the stores and the generate controls (spec/40_load_store.md): each instruction
is its shared operation at its address (`loadTo`, `storeFrom`), or writes the insertion mask of the place its address
names.
-/

namespace Sys2Proof.Machine

/- Loads and stores. -/

/-- Settles O16: each load is `loadTo` of its address (`Loads.of_loadTo`). -/
theorem loadsReadTheQuadword : Obligations.LoadsReadTheQuadword := by
  intro s rt ra rb i10 i16
  exact ⟨.of_loadTo (exec_lqd rt ra i10 s), .of_loadTo (exec_lqx rt ra rb s), .of_loadTo (exec_lqa rt i16 s),
    .of_loadTo (exec_lqr rt i16 s)⟩

/-- Settles O18: each store is `storeFrom` to its address (`Stores.of_storeFrom`). -/
theorem storesWriteTheQuadword : Obligations.StoresWriteTheQuadword := by
  intro s rt ra rb i10 i16
  exact ⟨.of_storeFrom (exec_stqd rt ra i10 s), .of_storeFrom (exec_stqx rt ra rb s),
    .of_storeFrom (exec_stqa rt i16 s), .of_storeFrom (exec_stqr rt i16 s)⟩

/- The insertion masks. -/

/-- The bytes of an insertion mask, as numbers. -/
theorem byte_insertMask {t n first j : Nat} (hf : first + n ≤ 256) (hj : j < 16) :
    (byte (insertMask t n first) j).toNat = if t ≤ j ∧ j < t + n then first + (j - t) else 0x10 + j := by
  rw [insertMask, byte_ofBytes _ _ hj]
  split <;> exact Nat.mod_eq_of_lt (by omega)

/-- Among the bytes in slots of `n`, those of the slot of byte `d` are the ones replaced, each by its place in it. -/
theorem byte_insertMask_slot {n first d j : Nat} (hn : 0 < n) (hf : first + n ≤ 256) (hj : j < 16) :
    (byte (insertMask (n * (d / n)) n first) j).toNat = if j / n = d / n then first + j % n else 0x10 + j := by
  have hslot : j / n = d / n ↔ n * (d / n) ≤ j ∧ j < n * (d / n) + n := by
    rw [Nat.div_eq_iff hn, Nat.mul_comm]
    omega
  rw [byte_insertMask hf hj]
  refine if_ctx_congr hslot.symm (fun h => ?_) fun _ => rfl
  rw [← h, Nat.mod_eq_sub_mul_div]

/-- Where the slot of `n` bytes begins that the low 4 bits of an address name: the mask clears the bits below it. -/
theorem toNat_and_slot (ea : Word) {n : Nat} (hn : n ∈ [1, 2, 4, 8]) :
    (ea &&& BitVec.ofNat 32 (16 - n)).toNat = n * (ea.toNat % 16 / n) := by
  have hlow : ∀ n ∈ [1, 2, 4, 8], (BitVec.ofNat 32 (16 - n)).toNat = (2 ^ 4 - 1) &&& (16 - n) ∧
      ∀ d < 16, d &&& (16 - n) = n * (d / n) := by decide
  obtain ⟨hmask, hslot⟩ := hlow n hn
  rw [BitVec.toNat_and, hmask, ← Nat.and_assoc, Nat.and_two_pow_sub_one_eq_mod]
  exact hslot _ (Nat.mod_lt _ (by decide))

theorem byte_byteMask (ea : Word) (j : Nat) (hj : j < 16) :
    (byte (byteMask ea) j).toNat = if j = ea.toNat % 16 then 3 else 0x10 + j := by
  rw [byteMask, toNat_and_slot ea (n := 1) (by decide), byte_insertMask_slot (by decide) (by decide) hj]
  simp [Nat.mod_one]

theorem byte_halfMask (ea : Word) (j : Nat) (hj : j < 16) :
    (byte (halfMask ea) j).toNat = if j / 2 = ea.toNat % 16 / 2 then 2 + j % 2 else 0x10 + j := by
  rw [halfMask, toNat_and_slot ea (n := 2) (by decide), byte_insertMask_slot (by decide) (by decide) hj]

theorem byte_wordMask (ea : Word) (j : Nat) (hj : j < 16) :
    (byte (wordMask ea) j).toNat = if j / 4 = ea.toNat % 16 / 4 then j % 4 else 0x10 + j := by
  rw [wordMask, toNat_and_slot ea (n := 4) (by decide), byte_insertMask_slot (by decide) (by decide) hj, Nat.zero_add]

theorem byte_dwordMask (ea : Word) (j : Nat) (hj : j < 16) :
    (byte (dwordMask ea) j).toNat = if j / 8 = ea.toNat % 16 / 8 then j % 8 else 0x10 + j := by
  rw [dwordMask, toNat_and_slot ea (n := 8) (by decide), byte_insertMask_slot (by decide) (by decide) hj, Nat.zero_add]

/-- Settles O20: each generate control writes the mask of its size, at the sum its form adds up. -/
theorem generateControlsFormTheMask : Obligations.GenerateControlsFormTheMask := by
  intro s rt ra rb i7
  constructor
  · exact ⟨.of_write (exec_cbd rt ra i7 s) (byte_byteMask _), .of_write (exec_chd rt ra i7 s) (byte_halfMask _),
      .of_write (exec_cwd rt ra i7 s) (byte_wordMask _), .of_write (exec_cdd rt ra i7 s) (byte_dwordMask _)⟩
  · exact ⟨.of_write (exec_cbx rt ra rb s) (byte_byteMask _), .of_write (exec_chx rt ra rb s) (byte_halfMask _),
      .of_write (exec_cwx rt ra rb s) (byte_wordMask _), .of_write (exec_cdx rt ra rb s) (byte_dwordMask _)⟩

end Sys2Proof.Machine
end

section
/-!
PROOFS. The statement about constant formation (spec/41_constant_formation.md): each instruction writes one value per
slot (`ofHalfs`, `ofWords`, `ofBytes`), and a lemma says the number of the value its immediate is extended to.
-/

namespace Sys2Proof.Machine

/-- Zeros appended on the right multiply by a power of two. -/
theorem toNat_append_zero {v : Nat} (x : BitVec v) (w : Nat) : (x ++ 0#w).toNat = x.toNat * 2 ^ w := by
  rw [BitVec.toNat_append, BitVec.toNat_ofNat, Nat.zero_mod, Nat.or_zero, Nat.shiftLeft_eq]

/-- Zeros appended on the left extend without a sign. -/
theorem zero_append_eq_setWidth {v : Nat} (w : Nat) (x : BitVec v) : 0#w ++ x = x.setWidth (w + v) := by
  apply BitVec.eq_of_toNat_eq
  rw [BitVec.toNat_append, BitVec.toNat_ofNat, Nat.zero_mod, Nat.zero_shiftLeft, Nat.zero_or,
    BitVec.toNat_setWidth_of_le (Nat.le_add_left v w)]

/-- Settles O21: each slot of RT holds the immediate as its instruction extends it. -/
theorem constantsAreFormed : Obligations.ConstantsAreFormed := by
  intro s rt i16 i18
  refine ⟨.of_write (exec_ilh rt i16 s) (hw_ofHalfs _), .of_write (exec_ilhu rt i16 s) fun j hj => ?ilhu,
    .of_write (exec_il rt i16 s) fun j hj => ?il, .of_write (exec_ila rt i18 s) fun j hj => ?ila,
    .of_write (exec_iohl rt i16 s) fun j hj => ?iohl, .of_write (exec_fsmbi rt i16 s) (byte_ofBytes _)⟩
  case ilhu => rw [word_ofWords _ j hj, toNat_append_zero]
  case il => rw [word_ofWords _ j hj, BitVec.toInt_signExtend_of_le (by decide)]
  case ila => rw [word_ofWords _ j hj, zero_append_eq_setWidth, BitVec.toNat_setWidth_of_le (by decide)]
  case iohl => rw [word_ofWords _ j hj, zero_append_eq_setWidth]

end Sys2Proof.Machine
end

section
/-!
PROOFS. The statements about the integer instructions (spec/42_integer.md): each writes one value per slot, so that its
statement is one about that value (`halfs_of_slots`, `words_of_slots`, `bytes_of_slots`), and a lemma says the number
of the value: as a sum, a carry, a product or a count.
-/

namespace Sys2Proof.Machine

/- Slot by slot. -/

/-- What a function reads of each byte of a register put together from bytes. -/
theorem bytes_of_slots {α : Type} (g : Byte → α) {f : Nat → Byte} {e : Nat → α} (h : ∀ j < 16, g (f j) = e j) :
    ∀ j < 16, g (byte (ofBytes f) j) = e j := fun j hj => by rw [byte_ofBytes f j hj, h j hj]

/-- What a function reads of each halfword of a register put together from halfwords. -/
theorem halfs_of_slots {α : Type} (g : Half → α) {f : Nat → Half} {e : Nat → α} (h : ∀ j < 8, g (f j) = e j) :
    ∀ j < 8, g (hw (ofHalfs f) j) = e j := fun j hj => by rw [hw_ofHalfs f j hj, h j hj]

/-- What a function reads of each word of a register put together from words. -/
theorem words_of_slots {α : Type} (g : Word → α) {f : Nat → Word} {e : Nat → α} (h : ∀ j < 4, g (f j) = e j) :
    ∀ j < 4, g (word (ofWords f) j) = e j := fun j hj => by rw [word_ofWords f j hj, h j hj]

/- Sums and differences. -/

theorem toInt_imm16 (i10 : BitVec 10) : (imm16 i10).toInt = i10.toInt := BitVec.toInt_signExtend_of_le (by decide)
theorem toInt_imm32 (i10 : BitVec 10) : (imm32 i10).toInt = i10.toInt := BitVec.toInt_signExtend_of_le (by decide)

/-- A difference as the spec writes it: the complement added, and one. -/
theorem toInt_add_not_add_one {w : Nat} (x y : BitVec w) :
    (x + ~~~y + 1#w).toInt = (x.toInt - y.toInt).bmod (2 ^ w) := by
  rw [BitVec.add_assoc, ← BitVec.neg_eq_not_add, ← BitVec.sub_eq_add_neg, BitVec.toInt_sub]

@[simp] theorem toNat_bitWord (c : Bool) : (bitWord c).toNat = c.toNat := by cases c <;> rfl

/-- Bit 0 is the remainder by two. -/
theorem toNat_getLsbD_zero {w : Nat} (x : BitVec w) : (x.getLsbD 0).toNat = x.toNat % 2 := by
  rw [BitVec.getLsbD, Nat.toNat_testBit, Nat.pow_zero, Nat.div_one]

/-- The carry is the sum divided by `2^32`: bit 32 of a sum of 33 bits, which holds the whole sum. -/
theorem toNat_bitWord_carryOut (a b : Word) (c : Bool) :
    (bitWord (carryOut a b c)).toNat = (a.toNat + b.toNat + c.toNat) / 2 ^ 32 := by
  have hc := c.toNat_le
  have hsum : (a.zeroExtend 33 + b.zeroExtend 33 + (BitVec.ofBool c).zeroExtend 33).toNat =
      a.toNat + b.toNat + c.toNat := by
    simp only [BitVec.toNat_add, BitVec.toNat_setWidth, BitVec.toNat_ofBool]
    omega
  rw [toNat_bitWord, carryOut, BitVec.getLsbD, hsum, Nat.toNat_testBit]
  omega

/-- There is no borrow where the difference, less the borrow that comes in, is not negative. -/
theorem noBorrow_iff (a b : Word) (c : Bool) :
    noBorrow a b c = true ↔ ¬(b.toNat : ℤ) - a.toNat - (1 - (c.toNat : ℤ)) < 0 := by
  cases c with
  | false =>
    rw [noBorrow, if_neg Bool.false_ne_true, decide_eq_true_iff, BitVec.lt_def, Bool.toNat_false]
    omega
  | true =>
    rw [noBorrow, if_pos rfl, decide_eq_true_iff, BitVec.le_def, Bool.toNat_true]
    omega

theorem toNat_bitWord_noBorrow (a b : Word) (c : Bool) :
    (bitWord (noBorrow a b c)).toNat = if (b.toNat : ℤ) - a.toNat - (1 - (c.toNat : ℤ)) < 0 then 0 else 1 := by
  rw [toNat_bitWord]
  split
  next h => rw [Bool.eq_false_iff.mpr fun hb => (noBorrow_iff a b c).mp hb h, Bool.toNat_false]
  next h => rw [(noBorrow_iff a b c).mpr h, Bool.toNat_true]

/-- The extended difference: the complement and the bit added. -/
theorem toNat_add_not_add_bitWord (a b : Word) (c : Bool) :
    ((b + ~~~a + bitWord c).toNat : ℤ) = ((b.toNat : ℤ) - a.toNat - (1 - (c.toNat : ℤ))) % 2 ^ 32 := by
  rw [BitVec.toNat_add, BitVec.toNat_add, BitVec.toNat_not, toNat_bitWord]
  omega

/-- Settles O22: each slot is a sum, a difference in the spec's form, a carry or a borrow of its operands. -/
theorem addAndSubtractWrap : Obligations.AddAndSubtractWrap := by
  intro s rt ra rb i10
  refine ⟨.of_write (exec_ah rt ra rb s) (halfs_of_slots _ fun j _ => BitVec.toInt_add _ _),
    .of_write (exec_ahi rt ra i10 s) (halfs_of_slots _ fun j _ => ?ahi),
    .of_write (exec_a rt ra rb s) (words_of_slots _ fun j _ => BitVec.toInt_add _ _),
    .of_write (exec_ai rt ra i10 s) (words_of_slots _ fun j _ => ?ai),
    .of_write (exec_sfh rt ra rb s) (halfs_of_slots _ fun j _ => toInt_add_not_add_one _ _),
    .of_write (exec_sfhi rt ra i10 s) (halfs_of_slots _ fun j _ => ?sfhi),
    .of_write (exec_sf rt ra rb s) (words_of_slots _ fun j _ => toInt_add_not_add_one _ _),
    .of_write (exec_sfi rt ra i10 s) (words_of_slots _ fun j _ => ?sfi),
    .of_write (exec_cg rt ra rb s) (words_of_slots _ fun j _ => toNat_bitWord_carryOut _ _ false),
    .of_write (exec_bg rt ra rb s) (words_of_slots _ fun j _ => ?bg)⟩
  case ahi => rw [BitVec.toInt_add, toInt_imm16]
  case ai => rw [BitVec.toInt_add, toInt_imm32]
  case sfhi => rw [toInt_add_not_add_one, toInt_imm16]
  case sfi => rw [toInt_add_not_add_one, toInt_imm32]
  case bg =>
    rw [toNat_bitWord_noBorrow]
    exact if_congr (by simp) rfl rfl

/-- Settles O23: the bit added, or the borrow that comes in, is the remainder of the word of RT by two. -/
theorem extendedArithmeticUsesTheLowBit : Obligations.ExtendedArithmeticUsesTheLowBit := by
  intro s rt ra rb a b c
  have hc : ∀ j, ((word (s.reg rt) j).getLsbD 0).toNat = c j := fun j => toNat_getLsbD_zero _
  refine ⟨.of_write (exec_addx rt ra rb s) (words_of_slots _ fun j _ => ?addx),
    .of_write (exec_cgx rt ra rb s) (words_of_slots _ fun j _ => ?cgx),
    .of_write (exec_sfx rt ra rb s) (words_of_slots (fun x => (x.toNat : ℤ)) fun j _ => ?sfx),
    .of_write (exec_bgx rt ra rb s) (words_of_slots _ fun j _ => ?bgx)⟩
  case addx => rw [BitVec.toNat_add, BitVec.toNat_add, toNat_bitWord, hc, Nat.mod_add_mod]
  case cgx => rw [toNat_bitWord_carryOut, hc]
  case sfx => rw [toNat_add_not_add_bitWord, hc]
  case bgx => rw [toNat_bitWord_noBorrow, hc]

/- Products. -/

/-- A product of signed halfwords needs no more than a word. -/
theorem toInt_mul_signExtend (x y : Half) : (x.signExtend 32 * y.signExtend 32).toInt = x.toInt * y.toInt := by
  have hle : x.toInt * y.toInt ≤ 2 ^ 30 := BitVec.toInt_mul_toInt_le
  have hge : -2 ^ 30 ≤ x.toInt * y.toInt := BitVec.le_toInt_mul_toInt
  rw [BitVec.toInt_mul, BitVec.toInt_signExtend_of_le (by decide), BitVec.toInt_signExtend_of_le (by decide)]
  exact Int.bmod_eq_of_le (by omega) (by omega)

/-- A product of unsigned halfwords needs no more than a word. -/
theorem toNat_mul_zeroExtend (x y : Half) : (x.zeroExtend 32 * y.zeroExtend 32).toNat = x.toNat * y.toNat := by
  rw [BitVec.toNat_mul, BitVec.toNat_setWidth_of_le (by decide), BitVec.toNat_setWidth_of_le (by decide)]
  exact Nat.mod_eq_of_lt BitVec.toNat_mul_toNat_lt

/-- The right half of a product of signed halfwords is that of the unsigned ones. -/
theorem toNat_low_mul_signExtend (x y : Half) :
    ((x.signExtend 32 * y.signExtend 32).extractLsb' 0 16).toNat = x.toNat * y.toNat % 2 ^ 16 := by
  have hlow : ∀ z : Half, (z.signExtend 32).setWidth 16 = z := fun z => by
    apply BitVec.eq_of_getLsbD_eq
    intro i hi
    rw [BitVec.getLsbD_setWidth, BitVec.getLsbD_signExtend]
    simp [hi, Nat.lt_trans hi (by decide : 16 < 32)]
  rw [← BitVec.setWidth_eq_extractLsb' (by decide), BitVec.setWidth_mul _ _ (by decide), hlow, hlow, BitVec.toNat_mul]

/-- The left half of a word, as a signed number, is the word divided by `2^16`. -/
theorem toInt_signExtend_high (x : Word) : ((x.extractLsb' 16 16).signExtend 32).toInt = x.toInt / 2 ^ 16 := by
  have hshift : (x.extractLsb' 16 16).signExtend 32 = x.sshiftRight 16 := by
    apply BitVec.eq_of_getLsbD_eq
    intro i hi
    have hmsb : (x.extractLsb' 16 16).msb = x.msb := by simp [BitVec.msb_eq_getLsbD_last]
    rw [BitVec.getLsbD_signExtend, BitVec.getLsbD_sshiftRight, hmsb]
    rcases Nat.lt_or_ge i 16 with h | h
    · rw [if_pos h, if_pos (by omega : 16 + i < 32)]
      simp [h, hi]
    · rw [if_neg (Nat.not_lt_of_ge h), if_neg (by omega : ¬16 + i < 32)]
      simp [hi]
  rw [hshift, BitVec.toInt_sshiftRight, Int.shiftRight_eq_div_pow]
  rfl

/-- Settles O24: each word is a product of two halfwords, with what its form does to it. -/
theorem multipliesAreExact : Obligations.MultipliesAreExact := by
  intro s rt ra rb rc i10 a b
  refine ⟨.of_write (exec_mpy rt ra rb s) (words_of_slots _ fun j _ => toInt_mul_signExtend _ _),
    .of_write (exec_mpyu rt ra rb s) (words_of_slots _ fun j _ => toNat_mul_zeroExtend _ _),
    .of_write (exec_mpyi rt ra i10 s) (words_of_slots _ fun j _ => ?mpyi),
    .of_write (exec_mpyui rt ra i10 s) (words_of_slots _ fun j _ => toNat_mul_zeroExtend _ _),
    .of_write (exec_mpya rt ra rb rc s) (words_of_slots _ fun j _ => ?mpya),
    .of_write (exec_mpyh rt ra rb s) (words_of_slots _ fun j _ => ?mpyh),
    .of_write (exec_mpys rt ra rb s) (words_of_slots _ fun j _ => ?mpys),
    .of_write (exec_mpyhh rt ra rb s) (words_of_slots _ fun j _ => toInt_mul_signExtend _ _),
    .of_write (exec_mpyhha rt ra rb s) (words_of_slots _ fun j _ => ?mpyhha),
    .of_write (exec_mpyhhu rt ra rb s) (words_of_slots _ fun j _ => toNat_mul_zeroExtend _ _),
    .of_write (exec_mpyhhau rt ra rb s) (words_of_slots _ fun j _ => ?mpyhhau)⟩
  case mpyi => rw [toInt_mul_signExtend, toInt_imm16]
  case mpya => rw [BitVec.toInt_add, toInt_mul_signExtend]
  case mpyh => rw [toNat_append_zero, toNat_low_mul_signExtend]
  case mpys => rw [toInt_signExtend_high, toInt_mul_signExtend]
  case mpyhha => rw [BitVec.toInt_add, toInt_mul_signExtend]
  case mpyhhau => rw [BitVec.toNat_add, toNat_mul_zeroExtend]

/- Counts, masks and gathered bits. -/

/-- The count of leading zeros among the low `n` bits: at most `n`, zeros are counted and the bit after them is one. -/
theorem leadingZeros_spec (v : Word) (n : Nat) :
    leadingZeros v n ≤ n ∧ (∀ k < leadingZeros v n, v.getLsbD (n - 1 - k) = false) ∧
      (leadingZeros v n < n → v.getLsbD (n - 1 - leadingZeros v n) = true) := by
  induction n with
  | zero => simp [leadingZeros]
  | succ n ih =>
    obtain ⟨hle, hzeros, hone⟩ := ih
    rw [leadingZeros]
    cases hn : v.getLsbD n with
    | true => simp [hn]
    | false =>
      have hbelow : ∀ k, n + 1 - 1 - (k + 1) = n - 1 - k := by omega
      refine ⟨by simpa using hle, fun k hk => ?_, fun h => ?_⟩
      · cases k with
        | zero => exact hn
        | succ k => rw [hbelow]; exact hzeros k (by simpa using hk)
      · rw [if_neg Bool.false_ne_true, hbelow]
        exact hone (by simpa using h)

/-- The count of one bits is how many of the bit numbers name one. -/
theorem popcount_eq_length_filter {w : Nat} (v : BitVec w) (n : Nat) :
    popcount v n = ((List.range n).filter fun b => v.getLsbD b).length := by
  induction n with
  | zero => rfl
  | succ n ih =>
    rw [popcount, ih, List.range_succ, List.filter_append, List.length_append]
    cases h : v.getLsbD n <;> simp [h]

theorem toNat_popcount (x : Byte) : (BitVec.ofNat 8 (popcount x 8)).toNat =
    ((List.range 8).filter fun b => x.getLsbD b).length := by
  have hle := List.length_filter_le (fun b => x.getLsbD b) (List.range 8)
  rw [List.length_range] at hle
  rw [popcount_eq_length_filter, BitVec.toNat_ofNat, Nat.mod_eq_of_lt (by omega)]

/-- The low bits of the preferred slot stand in its last halfword. -/
theorem getLsbD_hw_one (q : Quad) {i : Nat} (hi : i < 16) : (hw q 1).getLsbD i = (pref q).getLsbD i := by
  rw [pref, ← half_of_word q 1 0 (by decide) (by decide)]
  simp [hi]

/-- The lowest bits of the preferred slot stand in its last byte. -/
theorem getLsbD_byte_three (q : Quad) {i : Nat} (hi : i < 8) : (byte q 3).getLsbD i = (pref q).getLsbD i := by
  rw [pref, ← byte_of_word q 3 0 (by decide) (by decide)]
  simp [hi]

/-- The bits `f 0`, `f 1` and so on, `f 0` leftmost, in the low `n` bits of a word: what the gather instructions
form. -/
def gathered (f : Nat → Bool) (n : Nat) : Word :=
  (List.range n).foldl (fun w k => (w <<< 1) ||| bitWord (f k)) 0#32

theorem gathered_succ (f : Nat → Bool) (n : Nat) : gathered f (n + 1) = (gathered f n <<< 1) ||| bitWord (f n) := by
  simp [gathered, List.range_succ]

theorem gatherBytes_eq (q : Quad) : gatherBytes q = gathered (fun k => (byte q k).getLsbD 0) 16 := rfl
theorem gatherHalfs_eq (q : Quad) : gatherHalfs q = gathered (fun k => (hw q k).getLsbD 0) 8 := rfl
theorem gatherWords_eq (q : Quad) : gatherWords q = gathered (fun k => (word q k).getLsbD 0) 4 := rfl

theorem getLsbD_bitWord (c : Bool) (i : Nat) : (bitWord c).getLsbD i = (decide (i = 0) && c) := by
  cases c <;> cases i <;> simp [bitWord]

/-- Each bit gathered moves the earlier ones one place to the left. -/
theorem getLsbD_gathered (f : Nat → Bool) {n : Nat} (hn : n ≤ 32) (i : Nat) :
    (gathered f n).getLsbD i = (decide (i < n) && f (n - 1 - i)) := by
  induction n generalizing i with
  | zero => simp [gathered]
  | succ n ih =>
    rw [gathered_succ, BitVec.getLsbD_or, BitVec.getLsbD_shiftLeft, getLsbD_bitWord]
    cases i with
    | zero => simp
    | succ i =>
      rw [Nat.add_sub_cancel, ih (by omega), (by omega : n + 1 - 1 - (i + 1) = n - 1 - i)]
      by_cases hi : i < n
      · simp [hi, (by omega : i + 1 < 32)]
      · simp [hi]

/-- What the statement says of gathered bits in a register. -/
theorem prefQuad_gathered (f : Nat → Bool) {n : Nat} (hn : n ≤ 32) :
    (∀ j, 0 < j → j < 4 → word (prefQuad (gathered f n)) j = 0#32) ∧ (pref (prefQuad (gathered f n))).toNat < 2 ^ n ∧
      ∀ k < n, (pref (prefQuad (gathered f n))).getLsbD (n - 1 - k) = f k := by
  rw [pref_prefQuad]
  refine ⟨word_prefQuad _, Nat.lt_pow_two_of_testBit _ fun i hi => ?_, fun k hk => ?_⟩
  · change (gathered f n).getLsbD i = false
    simp [getLsbD_gathered f hn, Nat.not_lt_of_le hi]
  · rw [getLsbD_gathered f hn, (by omega : n - 1 - (n - 1 - k) = k)]
    simp [(by omega : n - 1 - k < n)]

/-- Settles O25: the counts by their recursion, the masks by the slot their bits stand in, the gathers by
`prefQuad_gathered`. -/
theorem countsMasksAndGathers : Obligations.CountsMasksAndGathers := by
  intro s rt ra
  refine ⟨.of_write (exec_clz rt ra s) fun j hj => ?clz,
    .of_write (exec_cntb rt ra s) (bytes_of_slots _ fun j _ => toNat_popcount _),
    .of_write (exec_fsmb rt ra s) (bytes_of_slots id fun j hj => ?fsmb),
    .of_write (exec_fsmh rt ra s) (halfs_of_slots id fun j hj => ?fsmh),
    .of_write (exec_fsm rt ra s) (words_of_slots id fun j _ => rfl),
    .of_write (exec_gbb rt ra s) (gatherBytes_eq _ ▸ prefQuad_gathered _ (by decide)),
    .of_write (exec_gbh rt ra s) (gatherHalfs_eq _ ▸ prefQuad_gathered _ (by decide)),
    .of_write (exec_gb rt ra s) (gatherWords_eq _ ▸ prefQuad_gathered _ (by decide))⟩
  case clz =>
    obtain ⟨hle, hzeros, hone⟩ := leadingZeros_spec (word (s.reg ra) j) 32
    rw [word_ofWords _ j hj, BitVec.toNat_ofNat, Nat.mod_eq_of_lt (by omega)]
    exact ⟨hle, hzeros, hone⟩
  case fsmb =>
    rw [getLsbD_hw_one _ (by omega)]
    rfl
  case fsmh =>
    rw [getLsbD_byte_three _ (by omega)]
    rfl

/- Bytes. -/

/-- The average, rounded up: the sum needs 9 bits, of which the lowest is dropped. -/
theorem toNat_average (x y : Byte) : ((x.zeroExtend 16 + y.zeroExtend 16 + 1#16).extractLsb' 1 8).toNat =
    (x.toNat + y.toNat + 1) / 2 := by
  have hsum : (x.zeroExtend 16 + y.zeroExtend 16 + 1#16).toNat = x.toNat + y.toNat + 1 := by
    simp only [BitVec.toNat_add, BitVec.toNat_setWidth, BitVec.toNat_ofNat]
    omega
  rw [BitVec.extractLsb'_toNat, hsum, Nat.shiftRight_eq_div_pow]
  omega

/-- The absolute difference: the lesser byte is the one subtracted. -/
theorem toNat_absoluteDifference (x y : Byte) :
    (if x < y then y - x else x - y).toNat = ((y.toNat : ℤ) - x.toNat).natAbs := by
  by_cases h : x < y
  · rw [if_pos h, BitVec.toNat_sub_of_le (BitVec.le_of_lt h)]
    have := BitVec.lt_def.mp h
    omega
  · rw [if_neg h, BitVec.toNat_sub_of_le (BitVec.not_lt.mp h)]
    have := BitVec.le_def.mp (BitVec.not_lt.mp h)
    omega

/-- A sum of four bytes needs no more than a halfword. -/
theorem toNat_sumOfBytes (q : Quad) (j : Nat) : (sumOfBytes q j).toNat =
    (byte q (4 * j)).toNat + (byte q (4 * j + 1)).toNat + (byte q (4 * j + 2)).toNat + (byte q (4 * j + 3)).toNat := by
  simp only [sumOfBytes, BitVec.toNat_add, BitVec.toNat_setWidth]
  omega

/-- The left halfword of each word of a register put together from pairs of halfwords. -/
theorem hw_even_ofWords (x y : Nat → Half) {j : Nat} (hj : j < 4) : hw (ofWords fun j => x j ++ y j) (2 * j) = x j := by
  rw [← Nat.add_zero (2 * j), ← half_of_word _ 0 j hj (by decide), word_ofWords _ j hj]
  exact extract_high _ _

/-- The right halfword of each word of a register put together from pairs of halfwords. -/
theorem hw_odd_ofWords (x y : Nat → Half) {j : Nat} (hj : j < 4) :
    hw (ofWords fun j => x j ++ y j) (2 * j + 1) = y j := by
  rw [← half_of_word _ 1 j hj (by decide), word_ofWords _ j hj]
  exact (extract_low _ _ (by decide)).trans (extract_all _)

/-- Settles O26: no sum of bytes leaves its slot, and a sign extension keeps the number. -/
theorem byteArithmeticAndSignExtension : Obligations.ByteArithmeticAndSignExtension := by
  intro s rt ra rb a b
  refine ⟨.of_write (exec_avgb rt ra rb s) (bytes_of_slots _ fun j _ => toNat_average _ _),
    .of_write (exec_absdb rt ra rb s) (bytes_of_slots _ fun j _ => toNat_absoluteDifference _ _),
    .of_write (exec_sumb rt ra rb s) fun j hj => ⟨?left, ?right⟩,
    .of_write (exec_xsbh rt ra s) (halfs_of_slots _ fun j _ => BitVec.toInt_signExtend_of_le (by decide)),
    .of_write (exec_xshw rt ra s) (words_of_slots _ fun j _ => BitVec.toInt_signExtend_of_le (by decide)),
    .of_write (exec_xswd rt ra s) fun j hj => ?xswd⟩
  case left => rw [hw_even_ofWords _ _ hj, toNat_sumOfBytes]
  case right => rw [hw_odd_ofWords _ _ hj, toNat_sumOfBytes]
  case xswd => rw [dword_ofDwords _ j hj, BitVec.toInt_signExtend_of_le (by decide)]

end Sys2Proof.Machine
end

section
/-!
PROOFS. The statements about the logical instructions (spec/43_logical.md): the bitwise ones by the bits of the value
written, the immediates and `shufb` slot by slot, with Table 5-1 of `shufb` as thresholds on the control byte.
-/

namespace Sys2Proof.Machine

/- Immediates. -/

theorem imm8_eq_setWidth (i10 : BitVec 10) : imm8 i10 = i10.setWidth 8 :=
  (BitVec.setWidth_eq_extractLsb' (by decide)).symm

/-- Settles O28: each slot combines the slot of RA with the immediate as its slot size extends it. -/
theorem logicalImmediatesReplicate : Obligations.LogicalImmediatesReplicate := by
  intro s rt ra i10
  rw [← imm8_eq_setWidth]
  exact ⟨.of_write (exec_andbi rt ra i10 s) (byte_ofBytes _), .of_write (exec_andhi rt ra i10 s) (hw_ofHalfs _),
    .of_write (exec_andi rt ra i10 s) (word_ofWords _), .of_write (exec_orbi rt ra i10 s) (byte_ofBytes _),
    .of_write (exec_orhi rt ra i10 s) (hw_ofHalfs _), .of_write (exec_ori rt ra i10 s) (word_ofWords _),
    .of_write (exec_xorbi rt ra i10 s) (byte_ofBytes _), .of_write (exec_xorhi rt ra i10 s) (hw_ofHalfs _),
    .of_write (exec_xori rt ra i10 s) (word_ofWords _)⟩

/- Bits. -/

/-- A bit inside the width is inverted by the complement. -/
theorem getLsbD_not_of_lt {w n : Nat} (x : BitVec w) (h : n < w) : (~~~x).getLsbD n = !x.getLsbD n := by
  rw [BitVec.getLsbD_not, decide_eq_true h, Bool.true_and]

/-- Bit `n` of word `j` is bit `n` of the register beside the words on its right. -/
theorem getLsbD_word (q : Quad) (j : Nat) {n : Nat} (h : n < 32) :
    (word q j).getLsbD n = q.getLsbD (96 - 32 * j + n) := by
  rw [word, BitVec.getLsbD_extractLsb', decide_eq_true h, Bool.true_and]

/-- The words ORed, bit by bit. -/
theorem getLsbD_orAcross (q : Quad) {n : Nat} (h : n < 32) :
    (word q 0 ||| word q 1 ||| word q 2 ||| word q 3).getLsbD n =
      (q.getLsbD n || q.getLsbD (n + 32) || q.getLsbD (n + 64) || q.getLsbD (n + 96)) := by
  simp only [BitVec.getLsbD_or, getLsbD_word q _ h, Nat.reduceMul, Nat.reduceSub, Nat.zero_add, Nat.add_comm n]
  ac_rfl

/-- The select formula of `selb`, bit by bit. -/
theorem getLsbD_select {w n : Nat} (a b c : BitVec w) (h : n < w) :
    (c &&& b ||| ~~~c &&& a).getLsbD n = if c.getLsbD n then b.getLsbD n else a.getLsbD n := by
  rw [BitVec.getLsbD_or, BitVec.getLsbD_and, BitVec.getLsbD_and, getLsbD_not_of_lt c h]
  cases c.getLsbD n <;> simp

/- Shuffle. -/

/-- A field holds a value where the number, its lower bits dropped, leaves that remainder. -/
theorem extract_eq_iff {w k n : Nat} (x : BitVec w) (v : BitVec n) :
    x.extractLsb' k n = v ↔ x.toNat / 2 ^ k % 2 ^ n = v.toNat := by
  rw [← BitVec.toNat_inj, BitVec.extractLsb'_toNat, Nat.shiftRight_eq_div_pow]

/-- Table 5-1 by thresholds: the leading bits `0b111`, `0b110` and `0b10` are those of the control bytes from 224, from
192 and from 128 on, so that no two of the tests hold of one control byte. -/
theorem shuffleByte_eq (a b : Quad) (c : Byte) : shuffleByte a b c =
    if 224 ≤ c.toNat then 0x80#8 else if 192 ≤ c.toNat then 0xFF#8 else if 128 ≤ c.toNat then 0x00#8
      else concatByte a b (c.toNat % 32) := by
  have hc := c.isLt
  have h10 : c.extractLsb' 6 2 = 0b10#2 ↔ 128 ≤ c.toNat ∧ c.toNat < 192 := by
    rw [extract_eq_iff, BitVec.toNat_ofNat]
    omega
  have h110 : c.extractLsb' 5 3 = 0b110#3 ↔ 192 ≤ c.toNat ∧ c.toNat < 224 := by
    rw [extract_eq_iff, BitVec.toNat_ofNat]
    omega
  have h111 : c.extractLsb' 5 3 = 0b111#3 ↔ 224 ≤ c.toNat := by
    rw [extract_eq_iff, BitVec.toNat_ofNat]
    omega
  have hlow : (c.extractLsb' 0 5).toNat = c.toNat % 32 := by
    rw [BitVec.extractLsb'_toNat, Nat.shiftRight_zero]
  rw [shuffleByte, hlow]
  simp only [h10, h110, h111]
  grind

/-- Settles O27: the bit of each formula, the words ORed across, and the table of `shufb`. -/
theorem logicalSelectAndShuffleActOnBits : Obligations.LogicalSelectAndShuffleActOnBits := by
  intro s rt ra rb rc a b
  refine ⟨.of_write (exec_and rt ra rb s) fun n _ => BitVec.getLsbD_and,
    .of_write (exec_andc rt ra rb s) fun n hn => ?andc,
    .of_write (exec_or rt ra rb s) fun n _ => BitVec.getLsbD_or,
    .of_write (exec_orc rt ra rb s) fun n hn => ?orc,
    .of_write (exec_xor rt ra rb s) fun n _ => BitVec.getLsbD_xor,
    .of_write (exec_nand rt ra rb s) fun n hn => ?nand,
    .of_write (exec_nor rt ra rb s) fun n hn => ?nor,
    .of_write (exec_eqv rt ra rb s) fun n hn => ?eqv,
    .of_write (exec_orx rt ra s) ⟨word_prefQuad _, fun n hn => ?orx⟩,
    .of_write (exec_selb rt ra rb rc s) fun n hn => getLsbD_select _ _ _ hn,
    .of_write (exec_shufb rt ra rb rc s) (bytes_of_slots id fun j _ => shuffleByte_eq _ _ _)⟩
  case andc => rw [BitVec.getLsbD_and, getLsbD_not_of_lt _ hn]
  case orc => rw [BitVec.getLsbD_or, getLsbD_not_of_lt _ hn]
  case nand => rw [getLsbD_not_of_lt _ hn, BitVec.getLsbD_and]
  case nor => rw [getLsbD_not_of_lt _ hn, BitVec.getLsbD_or]
  case eqv =>
    rw [BitVec.getLsbD_xor, getLsbD_not_of_lt _ hn, Bool.xor_not]
    exact Bool.not_not _
  case orx => rw [pref_prefQuad, getLsbD_orAcross _ hn]

end Sys2Proof.Machine
end

section
/-!
PROOFS. The statements about shifts and rotates (spec/44_shift_rotate.md): the count each form takes from its count
field, as a number; what a shift or a rotate by a count does to a value of any width; and each instruction as the two
put together.
-/

namespace Sys2Proof.Machine

/- Counts. -/

/-- A field of a value is the value, its lower bits dropped, modulo the size of the field. -/
theorem toNat_extract {w : Nat} (v : BitVec w) (k n : Nat) : (v.extractLsb' k n).toNat = v.toNat / 2 ^ k % 2 ^ n := by
  rw [BitVec.extractLsb'_toNat, Nat.shiftRight_eq_div_pow]

theorem lowBits_eq {w : Nat} (n : Nat) (v : BitVec w) : lowBits n v = v.toNat % 2 ^ n := by
  rw [lowBits, toNat_extract, Nat.pow_zero, Nat.div_one]

/-- The low bits of a negated field depend on the low bits of the field alone: they are its low bits, negated. -/
theorem negLowBits_eq {w : Nat} (n : Nat) (h : n ≤ w) (v : BitVec w) :
    negLowBits n v = (2 ^ n - v.toNat % 2 ^ n) % 2 ^ n := by
  rw [negLowBits, lowBits, BitVec.zero_sub, ← BitVec.setWidth_eq_extractLsb' h, BitVec.setWidth_neg_of_le h,
    BitVec.toNat_neg, BitVec.toNat_setWidth]

/-- The negated field of a bit count that counts bytes. -/
theorem negLowBits_extract {w : Nat} (v : BitVec w) (k n : Nat) :
    negLowBits n (v.extractLsb' k n) = (2 ^ n - v.toNat / 2 ^ k % 2 ^ n) % 2 ^ n := by
  rw [negLowBits_eq n le_rfl, toNat_extract, Nat.mod_mod]

/-- A count of bytes, as one of bits. -/
theorem eight_mul {m n : Nat} (h : m = n) : 8 * m = 8 * n := congrArg (8 * ·) h

/- A shift or a rotate by a count. -/

theorem toNat_shiftLeft_of_count {w m n : Nat} (h : m = n) (x : BitVec w) :
    (x <<< m).toNat = x.toNat * 2 ^ n % 2 ^ w := by
  rw [h, BitVec.toNat_shiftLeft, Nat.shiftLeft_eq]

theorem toNat_shiftRight_of_count {w m n : Nat} (h : m = n) (x : BitVec w) : (x >>> m).toNat = x.toNat / 2 ^ n := by
  rw [h, BitVec.toNat_ushiftRight, Nat.shiftRight_eq_div_pow]

theorem toInt_sshiftRight_of_count {w m n : Nat} (h : m = n) (x : BitVec w) :
    (x.sshiftRight m).toInt = x.toInt / 2 ^ n := by
  rw [h, BitVec.toInt_sshiftRight, Int.shiftRight_eq_div_pow, Nat.cast_pow, Nat.cast_ofNat]

/-- A rotate moves bit `n` by the count, around the width: a place below the count holds what left on the left. -/
theorem getLsbD_rotateLeft_of_count {w m c n : Nat} (h : m = c) (x : BitVec w) (hn : n < w) :
    (x.rotateLeft m).getLsbD ((n + c) % w) = x.getLsbD n := by
  have hpos : 0 < w := Nat.zero_lt_of_lt hn
  have hr : c % w < w := Nat.mod_lt c hpos
  rw [h, BitVec.getLsbD_rotateLeft, ← Nat.add_mod_mod]
  rcases Nat.lt_or_ge (n + c % w) w with hin | hout
  · rw [Nat.mod_eq_of_lt hin, decide_eq_false (by omega), decide_eq_true hin, Nat.add_sub_cancel]
    rfl
  · have hplace : (n + c % w) % w = n + c % w - w := by
      rw [Nat.mod_eq_sub_mod hout, Nat.mod_eq_of_lt (by omega)]
    rw [hplace, decide_eq_true (by omega), (by omega : w - c % w + (n + c % w - w) = n)]
    rfl

/-- A whole count moves a bit as the count modulo the width does. -/
theorem getLsbD_rotateLeft_of_count_mod {w m c n : Nat} (h : m = c % w) (x : BitVec w) (hn : n < w) :
    (x.rotateLeft m).getLsbD ((n + c) % w) = x.getLsbD n := by
  rw [← Nat.add_mod_mod]
  exact getLsbD_rotateLeft_of_count h x hn

/- Instructions. -/

/-- Settles O29: each slot is shifted by the low bits of its count field. -/
theorem shiftsLeftMultiply : Obligations.ShiftsLeftMultiply := by
  intro s rt ra rb i7 c
  exact ⟨
    .of_write (exec_shlh rt ra rb s) (halfs_of_slots _ fun j _ => toNat_shiftLeft_of_count (lowBits_eq 5 _) _),
    .of_write (exec_shlhi rt ra i7 s) (halfs_of_slots _ fun j _ => toNat_shiftLeft_of_count (lowBits_eq 5 i7) _),
    .of_write (exec_shl rt ra rb s) (words_of_slots _ fun j _ => toNat_shiftLeft_of_count (lowBits_eq 6 _) _),
    .of_write (exec_shli rt ra i7 s) (words_of_slots _ fun j _ => toNat_shiftLeft_of_count (lowBits_eq 6 i7) _),
    .of_write (exec_shlqbi rt ra rb s) (toNat_shiftLeft_of_count (lowBits_eq 3 _) _),
    .of_write (exec_shlqbii rt ra i7 s) (toNat_shiftLeft_of_count (lowBits_eq 3 i7) _),
    .of_write (exec_shlqby rt ra rb s) (toNat_shiftLeft_of_count (eight_mul (lowBits_eq 5 _)) _),
    .of_write (exec_shlqbyi rt ra i7 s) (toNat_shiftLeft_of_count (eight_mul (lowBits_eq 5 i7)) _),
    .of_write (exec_shlqbybi rt ra rb s) (toNat_shiftLeft_of_count (eight_mul (toNat_extract _ 3 5)) _)⟩

/-- Settles O30: halfwords and words take the whole count, which counts modulo the width; a quadword takes the bits of
the count that its form names. -/
theorem rotatesMoveBitsAround : Obligations.RotatesMoveBitsAround := by
  intro s rt ra rb i7 c a
  refine ⟨.of_write (exec_roth rt ra rb s) fun j hj n hn => ?roth,
    .of_write (exec_rothi rt ra i7 s) fun j hj n hn => ?rothi,
    .of_write (exec_rot rt ra rb s) fun j hj n hn => ?rot,
    .of_write (exec_roti rt ra i7 s) fun j hj n hn => ?roti,
    .of_write (exec_rotqby rt ra rb s) fun n hn => getLsbD_rotateLeft_of_count (eight_mul (lowBits_eq 4 _)) _ hn,
    .of_write (exec_rotqbyi rt ra i7 s) fun n hn => getLsbD_rotateLeft_of_count (eight_mul (lowBits_eq 4 i7)) _ hn,
    .of_write (exec_rotqbybi rt ra rb s) fun n hn =>
      getLsbD_rotateLeft_of_count (eight_mul (toNat_extract _ 3 4)) _ hn,
    .of_write (exec_rotqbi rt ra rb s) fun n hn => getLsbD_rotateLeft_of_count (lowBits_eq 3 _) _ hn,
    .of_write (exec_rotqbii rt ra i7 s) fun n hn => getLsbD_rotateLeft_of_count (lowBits_eq 3 i7) _ hn⟩
  case roth =>
    rw [hw_ofHalfs _ j hj]
    exact getLsbD_rotateLeft_of_count_mod (lowBits_eq 4 _) _ hn
  case rothi =>
    rw [hw_ofHalfs _ j hj]
    exact getLsbD_rotateLeft_of_count_mod (lowBits_eq 4 i7) _ hn
  case rot =>
    rw [word_ofWords _ j hj]
    exact getLsbD_rotateLeft_of_count_mod (lowBits_eq 5 _) _ hn
  case roti =>
    rw [word_ofWords _ j hj]
    exact getLsbD_rotateLeft_of_count_mod (lowBits_eq 5 i7) _ hn

/-- Settles O31: each slot is shifted to the right by the low bits of its count field, negated; `rotqmbybi` negates
the five bits that count bytes. -/
theorem rotateAndMaskShiftsRight : Obligations.RotateAndMaskShiftsRight := by
  intro s rt ra rb i7 c i
  exact ⟨
    .of_write (exec_rothm rt ra rb s)
      (halfs_of_slots _ fun j _ => toNat_shiftRight_of_count (negLowBits_eq 5 (by decide) _) _),
    .of_write (exec_rothmi rt ra i7 s)
      (halfs_of_slots _ fun j _ => toNat_shiftRight_of_count (negLowBits_eq 5 (by decide) i7) _),
    .of_write (exec_rotm rt ra rb s)
      (words_of_slots _ fun j _ => toNat_shiftRight_of_count (negLowBits_eq 6 (by decide) _) _),
    .of_write (exec_rotmi rt ra i7 s)
      (words_of_slots _ fun j _ => toNat_shiftRight_of_count (negLowBits_eq 6 (by decide) i7) _),
    .of_write (exec_rotqmby rt ra rb s) (toNat_shiftRight_of_count (eight_mul (negLowBits_eq 5 (by decide) _)) _),
    .of_write (exec_rotqmbyi rt ra i7 s) (toNat_shiftRight_of_count (eight_mul (negLowBits_eq 5 (by decide) i7)) _),
    .of_write (exec_rotqmbybi rt ra rb s) (toNat_shiftRight_of_count (eight_mul (negLowBits_extract _ 3 5)) _),
    .of_write (exec_rotqmbi rt ra rb s) (toNat_shiftRight_of_count (negLowBits_eq 3 (by decide) _) _),
    .of_write (exec_rotqmbii rt ra i7 s) (toNat_shiftRight_of_count (negLowBits_eq 3 (by decide) i7) _)⟩

/-- Settles O32: as O31, with the sign of the slot coming in on the left. -/
theorem rotateAndMaskAlgebraicDivides : Obligations.RotateAndMaskAlgebraicDivides := by
  intro s rt ra rb i7
  exact ⟨
    .of_write (exec_rotmah rt ra rb s)
      (halfs_of_slots _ fun j _ => toInt_sshiftRight_of_count (negLowBits_eq 5 (by decide) _) _),
    .of_write (exec_rotmahi rt ra i7 s)
      (halfs_of_slots _ fun j _ => toInt_sshiftRight_of_count (negLowBits_eq 5 (by decide) i7) _),
    .of_write (exec_rotma rt ra rb s)
      (words_of_slots _ fun j _ => toInt_sshiftRight_of_count (negLowBits_eq 6 (by decide) _) _),
    .of_write (exec_rotmai rt ra i7 s)
      (words_of_slots _ fun j _ => toInt_sshiftRight_of_count (negLowBits_eq 6 (by decide) i7) _)⟩

end Sys2Proof.Machine
end

section
/-!
PROOFS. The statements about compares, halts and branches (spec/45_compare_branch_halt.md), and about SRR0, which
`iret` returns to: each instruction is its shared operation (`write`, `haltIf`, `branchIf`, `branchIndirect`) on a
condition of the model, and a lemma says what that condition says of the operands.
-/

namespace Sys2Proof.Machine

/- Conditions: what a comparison with an immediate says of the immediate as a number. -/

theorem beq_imm16_iff (x : Half) (i10 : BitVec 10) : (x == imm16 i10) = true ↔ x.toInt = i10.toInt := by
  rw [beq_iff_eq, ← BitVec.toInt_inj, toInt_imm16]

theorem beq_imm32_iff (x : Word) (i10 : BitVec 10) : (x == imm32 i10) = true ↔ x.toInt = i10.toInt := by
  rw [beq_iff_eq, ← BitVec.toInt_inj, toInt_imm32]

theorem imm16_slt_iff (x : Half) (i10 : BitVec 10) : (imm16 i10).slt x = true ↔ i10.toInt < x.toInt := by
  rw [BitVec.slt_iff_toInt_lt, toInt_imm16]

theorem imm32_slt_iff (x : Word) (i10 : BitVec 10) : (imm32 i10).slt x = true ↔ i10.toInt < x.toInt := by
  rw [BitVec.slt_iff_toInt_lt, toInt_imm32]

theorem imm8_ult_iff (x : Byte) (i10 : BitVec 10) : (imm8 i10).ult x = true ↔ i10.toNat % 256 < x.toNat := by
  rw [BitVec.ult_iff_toNat_lt, imm8_eq_setWidth, BitVec.toNat_setWidth]

/-- The right halfword of the preferred slot is the slot modulo `2^16`. -/
theorem hw_one_eq_zero_iff (q : Quad) : hw q 1 = 0#16 ↔ (pref q).toNat % 2 ^ 16 = 0 := by
  rw [← half_of_word q 1 0 (by decide) (by decide), extract_eq_iff, Nat.pow_zero, Nat.div_one]
  rfl

theorem hw_one_beq_zero_iff (q : Quad) : (hw q 1 == 0#16) = true ↔ (pref q).toNat % 2 ^ 16 = 0 :=
  beq_iff_eq.trans (hw_one_eq_zero_iff q)

theorem hw_one_bne_zero_iff (q : Quad) : (hw q 1 != 0#16) = true ↔ (pref q).toNat % 2 ^ 16 ≠ 0 :=
  bne_iff_ne.trans (hw_one_eq_zero_iff q).not

/- Compares. -/

/-- A truth mask, by what its condition says. -/
theorem truth_eq_ite {w : Nat} {c : Bool} {p : Prop} [Decidable p] (h : c = true ↔ p) :
    truth w c = if p then BitVec.allOnes w else 0#w := if_congr h rfl rfl

theorem byte_truths {c : Nat → Bool} {p : Nat → Prop} [DecidablePred p] (h : ∀ j, c j = true ↔ p j) :
    ∀ j < 16, byte (ofBytes fun j => truth 8 (c j)) j = if p j then 0xFF#8 else 0x00#8 :=
  bytes_of_slots id fun j _ => truth_eq_ite (h j)

theorem hw_truths {c : Nat → Bool} {p : Nat → Prop} [DecidablePred p] (h : ∀ j, c j = true ↔ p j) :
    ∀ j < 8, hw (ofHalfs fun j => truth 16 (c j)) j = if p j then 0xFFFF#16 else 0x0000#16 :=
  halfs_of_slots id fun j _ => truth_eq_ite (h j)

theorem word_truths {c : Nat → Bool} {p : Nat → Prop} [DecidablePred p] (h : ∀ j, c j = true ↔ p j) :
    ∀ j < 4, word (ofWords fun j => truth 32 (c j)) j = if p j then 0xFFFFFFFF#32 else 0x00000000#32 :=
  words_of_slots id fun j _ => truth_eq_ite (h j)

/-- Settles O33: each compare writes truth masks, of an equality or of the signed order. -/
theorem signedComparesSetMasks : Obligations.SignedComparesSetMasks := by
  intro s rt ra rb i10
  rw [← imm8_eq_setWidth]
  exact ⟨.of_write (exec_ceqb rt ra rb s) (byte_truths fun _ => beq_iff_eq),
    .of_write (exec_ceqbi rt ra i10 s) (byte_truths fun _ => beq_iff_eq),
    .of_write (exec_ceqh rt ra rb s) (hw_truths fun _ => beq_iff_eq),
    .of_write (exec_ceqhi rt ra i10 s) (hw_truths fun _ => beq_imm16_iff _ i10),
    .of_write (exec_ceq rt ra rb s) (word_truths fun _ => beq_iff_eq),
    .of_write (exec_ceqi rt ra i10 s) (word_truths fun _ => beq_imm32_iff _ i10),
    .of_write (exec_cgtb rt ra rb s) (byte_truths fun _ => BitVec.slt_iff_toInt_lt),
    .of_write (exec_cgtbi rt ra i10 s) (byte_truths fun _ => BitVec.slt_iff_toInt_lt),
    .of_write (exec_cgth rt ra rb s) (hw_truths fun _ => BitVec.slt_iff_toInt_lt),
    .of_write (exec_cgthi rt ra i10 s) (hw_truths fun _ => imm16_slt_iff _ i10),
    .of_write (exec_cgt rt ra rb s) (word_truths fun _ => BitVec.slt_iff_toInt_lt),
    .of_write (exec_cgti rt ra i10 s) (word_truths fun _ => imm32_slt_iff _ i10)⟩

/-- Settles O34: as O33, of the unsigned order. -/
theorem logicalComparesSetMasks : Obligations.LogicalComparesSetMasks := by
  intro s rt ra rb i10
  exact ⟨.of_write (exec_clgtb rt ra rb s) (byte_truths fun _ => BitVec.ult_iff_toNat_lt),
    .of_write (exec_clgtbi rt ra i10 s) (byte_truths fun _ => imm8_ult_iff _ i10),
    .of_write (exec_clgth rt ra rb s) (hw_truths fun _ => BitVec.ult_iff_toNat_lt),
    .of_write (exec_clgthi rt ra i10 s) (hw_truths fun _ => BitVec.ult_iff_toNat_lt),
    .of_write (exec_clgt rt ra rb s) (word_truths fun _ => BitVec.ult_iff_toNat_lt),
    .of_write (exec_clgti rt ra i10 s) (word_truths fun _ => BitVec.ult_iff_toNat_lt)⟩

/- Halts. -/

/-- A halt, by what its condition says. -/
theorem HaltsIf.of_haltIf_iff {i : Instr} {s : State} {c : Bool} {p : Prop} (he : exec i s = s.haltIf c)
    (h : c = true ↔ p) : HaltsIf i s p := propext h ▸ HaltsIf.of_haltIf he

/-- Settles O35: each halt is `haltIf` on its condition. -/
theorem haltsStopOnTheCondition : Obligations.HaltsStopOnTheCondition := by
  intro s ra rb i10
  exact ⟨.of_haltIf_iff (exec_heq ra rb s) beq_iff_eq,
    .of_haltIf_iff (exec_heqi ra i10 s) (beq_imm32_iff _ i10),
    .of_haltIf_iff (exec_hgt ra rb s) BitVec.slt_iff_toInt_lt,
    .of_haltIf_iff (exec_hgti ra i10 s) (imm32_slt_iff _ i10),
    .of_haltIf_iff (exec_hlgt ra rb s) BitVec.ult_iff_toNat_lt,
    .of_haltIf_iff (exec_hlgti ra i10 s) BitVec.ult_iff_toNat_lt⟩

/- Relative and absolute branches. -/

/-- A branch, by what its condition says. -/
theorem GoesTo.of_branchIf_iff {i : Instr} {s : State} {c : Bool} {p : Prop} [Decidable p] {target : Word}
    (he : exec i s = s.branchIf c target) (h : c = true ↔ p) :
    GoesTo i s (if p then target else (s.pc + 4#32) &&& s.lslr) :=
  if_congr h rfl rfl ▸ GoesTo.of_branchIf he

/-- Settles O36: the condition of these branches is true. -/
theorem branchesGoToTheTarget : Obligations.BranchesGoToTheTarget := by
  intro s rt i16
  exact ⟨GoesTo.of_branchIf (exec_br i16 s), GoesTo.of_branchIf (exec_bra i16 s),
    .of_branchIf (exec_brsl rt i16 s), .of_branchIf (exec_brasl rt i16 s)⟩

/-- Settles O37: each branch is `branchIf` on its condition. -/
theorem conditionalBranchesTestThePreferredSlot : Obligations.ConditionalBranchesTestThePreferredSlot := by
  intro s rt i16 target next
  exact ⟨.of_branchIf_iff (exec_brnz rt i16 s) bne_iff_ne, .of_branchIf_iff (exec_brz rt i16 s) beq_iff_eq,
    .of_branchIf_iff (exec_brhnz rt i16 s) (hw_one_bne_zero_iff _),
    .of_branchIf_iff (exec_brhz rt i16 s) (hw_one_beq_zero_iff _)⟩

/- Indirect branches. -/

/-- Feature bits that are not both set: pc and IE are set (R342). -/
theorem State.branchIndirect_of_not_both {d e : Bool} (h : (d && e) = false) (s : State) (target : Word) :
    s.branchIndirect d e target = .next { s with pc := target, ie := ieAfter d e s.ie } := by
  rcases s.branchIndirect_cases d e target with ⟨rfl, rfl, -⟩ | ⟨-, hnext⟩
  · cases h
  · exact hnext

/-- Both feature bits set: the event Undefined (R342). -/
theorem State.branchIndirect_both (s : State) (target : Word) :
    s.branchIndirect true true target = .fault (.undefinedBranch s.pc) := rfl

theorem State.branchIndirectIf_taken {c : Bool} (h : c = true) (s : State) (d e : Bool) (target : Word) :
    s.branchIndirectIf c d e target = s.branchIndirect d e target := if_pos h

theorem State.branchIndirectIf_not_taken {c : Bool} (h : ¬c = true) (s : State) (d e : Bool) (target : Word) :
    s.branchIndirectIf c d e target = .next s.advance := if_neg h

section
variable {i : Instr} {s : State} {rt ra : Reg} {d e : Bool}

theorem BranchesIndirectly.of_branchIndirect (hde : (d && e) = false)
    (he : exec i s = s.branchIndirect d e (indTarget s.lslr (pref (s.reg ra)))) : BranchesIndirectly i s ra d e :=
  ⟨_, he.trans (s.branchIndirect_of_not_both hde _), fun _ => rfl, rfl, .setPcIe s _ _⟩

/-- The link is written first; the target was read before it. -/
theorem BranchesIndirectlyLinked.of_branchIndirect (hde : (d && e) = false)
    (he : exec i s = (s.setReg rt s.link).branchIndirect d e (indTarget s.lslr (pref (s.reg ra)))) :
    BranchesIndirectlyLinked i s rt ra d e := by
  have hlink : (s.setReg rt s.link).reg rt = s.link := s.reg_setReg_self rt _
  refine ⟨_, he.trans (State.branchIndirect_of_not_both hde _ _), fun r hr => s.reg_setReg_ne rt r _ hr, rfl, ?_,
    (congrArg pref hlink).trans s.link_pref, fun j h h4 => (congrArg (word · j) hlink).trans (s.link_rest j h h4)⟩
  exact ⟨rfl, rfl, rfl, fun _ => rfl, rfl, rfl, rfl, rfl, rfl, rfl, ⟨rfl, rfl, rfl, rfl⟩, ⟨rfl, rfl⟩⟩

/-- A conditional indirect branch, by what its condition says. -/
theorem BranchesIf.of_branchIndirectIf {c : Bool} {p : Prop}
    (he : exec i s = s.branchIndirectIf c d e (indTarget s.lslr (pref (s.reg ra)))) (h : c = true ↔ p) :
    BranchesIf i s ra d e p :=
  ⟨fun hp hde => .of_branchIndirect hde (he.trans (s.branchIndirectIf_taken (h.mpr hp) d e _)),
    fun hp => .of_advance (he.trans (s.branchIndirectIf_not_taken (mt h.mp hp) d e _))⟩

/-- An indirect branch that is taken with both feature bits set. -/
theorem exec_undefined_of_branchIndirect {b : State} {target : Word}
    (he : exec i s = b.branchIndirect true true target) : exec i s = .fault (.undefinedBranch b.pc) :=
  he.trans (b.branchIndirect_both target)

theorem exec_undefined_of_branchIndirectIf {b : State} {c : Bool} {target : Word}
    (he : exec i s = b.branchIndirectIf c true true target) (h : c = true) :
    exec i s = .fault (.undefinedBranch b.pc) :=
  exec_undefined_of_branchIndirect (he.trans (b.branchIndirectIf_taken h true true target))

end

/-- Settles O38: each branch is `branchIndirect` to the address in RA, on its condition. -/
theorem indirectBranchesFollowTheRegister : Obligations.IndirectBranchesFollowTheRegister := by
  intro s rt ra d e
  exact ⟨fun hde => ⟨.of_branchIndirect hde (exec_bi ra d e s), .of_branchIndirect hde (exec_bisl rt ra d e s)⟩,
    .of_branchIndirectIf (exec_biz rt ra d e s) beq_iff_eq,
    .of_branchIndirectIf (exec_binz rt ra d e s) bne_iff_ne,
    .of_branchIndirectIf (exec_bihz rt ra d e s) (hw_one_beq_zero_iff _),
    .of_branchIndirectIf (exec_bihnz rt ra d e s) (hw_one_bne_zero_iff _)⟩

/-- Settles O39: the external condition decides between an indirect branch and the next instruction, both after the
link is written. -/
theorem bisledPollsTheExternalCondition : Obligations.BisledPollsTheExternalCondition := by
  intro s rt ra d e
  refine ⟨fun hext hde => ?taken, fun hext => ?notTaken⟩
  case taken =>
    exact .of_branchIndirect hde ((exec_bisled rt ra d e s).trans (State.branchIndirectIf_taken hext _ d e _))
  case notTaken =>
    exact .of_branchIf ((exec_bisled rt ra d e s).trans
      (State.branchIndirectIf_not_taken (Bool.eq_false_iff.mp hext) _ d e _))

/-- `iret` is an indirect branch to the SRR0 it sees. -/
theorem exec_iret_eq (ra : Reg) (d e : Bool) (s : State) :
    exec (.iret ra d e) s = s.sawSrr0.branchIndirect d e (indTarget s.lslr s.srr0Value) := rfl

/-- Settles O40: the unconditional ones always branch, the others where their condition is true. -/
theorem bothFeatureBitsAreUndefined : Obligations.BothFeatureBitsAreUndefined := by
  intro s rt ra
  refine ⟨exec_undefined_of_branchIndirect (exec_bi ra true true s),
    exec_undefined_of_branchIndirect (b := s.setReg rt s.link) (exec_bisl rt ra true true s), ?iret,
    exec_undefined_of_branchIndirectIf (b := s.setReg rt s.link) (exec_bisled rt ra true true s),
    fun h => exec_undefined_of_branchIndirectIf (exec_biz rt ra true true s) (beq_iff_eq.mpr h),
    fun h => exec_undefined_of_branchIndirectIf (exec_binz rt ra true true s) (bne_iff_ne.mpr h),
    fun h => exec_undefined_of_branchIndirectIf (exec_bihz rt ra true true s) (beq_iff_eq.mpr h),
    fun h => exec_undefined_of_branchIndirectIf (exec_bihnz rt ra true true s) (bne_iff_ne.mpr h)⟩
  case iret =>
    rw [← s.sawSrr0_pc]
    exact exec_undefined_of_branchIndirect (exec_iret_eq ra true true s)

/- SRR0. -/

/-- Without a pending value SRR0 is seen as it stands. -/
theorem State.srr0Value_of_settled {s : State} (h : s.srr0Pending = none) : s.srr0Value = s.srr0 := if_pos h

/-- Without a pending value no free value is taken. -/
theorem State.sawSrr0_of_settled {s : State} (h : s.srr0Pending = none) : s.sawSrr0 = s := if_pos h

/-- Settles O41: seeing SRR0 changes nothing but the count of free values. -/
theorem iretGoesToSrr0 : Obligations.IretGoesToSrr0 := by
  intro s ra d e hde
  refine ⟨_, s.srr0Value, (exec_iret_eq ra d e s).trans (s.sawSrr0.branchIndirect_of_not_both hde _),
    fun h => ⟨State.srr0Value_of_settled h, (congrArg State.free (State.sawSrr0_of_settled h) :)⟩,
    fun r => s.sawSrr0_reg r, ?_⟩
  constructor
  case pc => rfl
  case ie => rw [State.sawSrr0_ie]
  case bytes => exact fun a => by rw [State.sawSrr0_ls]
  case env => constructor <;> simp
  case hist => constructor <;> simp
  all_goals simp

theorem exec_wrch_srr0 (s : State) (rt : Reg) :
    exec (.wrch 14#7 rt) s = .next { s with srr0Pending := some (pref (s.reg rt)) }.channelDone := rfl

theorem exec_sync_c (s : State) : exec (.sync true) s = .next s.syncC.advance := rfl

theorem exec_rdch_srr0 {s : State} (h : s.srr0Pending = none) (rt : Reg) :
    exec (.rdch rt 15#7) s = .next (s.setReg rt (prefQuad s.srr0)).channelDone := by
  have hread : exec (.rdch rt 15#7) s = .next (s.sawSrr0.setReg rt (prefQuad s.srr0Value)).channelDone := rfl
  rw [hread, State.sawSrr0_of_settled h, State.srr0Value_of_settled h]

/-- After `wrch` on channel 14 a `sync.c` puts the value into SRR0; what `iret` and `rdch` depend on beside it is as
before. -/
theorem sync_c_after_wrch_srr0 {s t : State} {rt : Reg} (e : exec (.wrch 14#7 rt) s = .next t) :
    ∃ u, exec (.sync true) t = .next u ∧ u.srr0 = pref (s.reg rt) ∧ u.srr0Pending = none ∧ u.lslr = s.lslr ∧
      u.ie = s.ie ∧ SameRegs s u := by
  obtain rfl := Host.Outcome.next.inj ((exec_wrch_srr0 s rt).symm.trans e)
  refine ⟨_, exec_sync_c _, ?_, ?_, ?_, ?_, fun r => (State.advance_reg _ r).trans (State.syncC_reg _ r)⟩ <;> simp

/-- Settles O60: the value written is pending until `sync.c` puts it into SRR0, where `iret` and `rdch` see it. -/
theorem srr0IsWrittenReadAndReturnedTo : Obligations.Srr0IsWrittenReadAndReturnedTo := by
  intro s rt rt' ra
  refine ⟨_, exec_wrch_srr0 s rt, rfl, fun _ => rfl, ?frame, rfl, rfl, ?synced⟩
  case frame =>
    exact ⟨fun _ _ => rfl, rfl, fun _ => rfl, rfl, rfl, rfl, rfl, rfl, ⟨rfl, rfl, rfl, rfl⟩, ⟨rfl, rfl⟩⟩
  case synced =>
    obtain ⟨u, hu, hsrr0, hpending, hlslr, hie, hregs⟩ := sync_c_after_wrch_srr0 (exec_wrch_srr0 s rt)
    refine ⟨u, hu, hsrr0, ?iret, ?rdch⟩
    case iret =>
      obtain ⟨v, a, hv, hseen, -, hframe⟩ := iretGoesToSrr0 u ra false false rfl
      obtain ⟨rfl, -⟩ := hseen hpending
      exact ⟨v, hv, by rw [hframe.pc, hsrr0, hlslr], hframe.ie.trans hie⟩
    case rdch =>
      refine ⟨_, exec_rdch_srr0 hpending rt', fun r hr => ?others, ?read⟩
      case others => rw [State.channelDone_reg, State.reg_setReg_ne _ _ _ _ hr, hregs r]
      case read =>
        rw [State.channelDone_reg, State.reg_setReg_self, hsrr0]
        exact ⟨pref_prefQuad _, word_prefQuad _⟩

end Sys2Proof.Machine
end

section
/-!
PROOFS. The statement about branch hints (spec/46_branch_hints.md) and the no-operations `lnop` and `nop`: each
instruction is `advance` alone, so its operands do not matter, and `GoesTo.of_advance` is the frame.
-/

namespace Sys2Proof.Machine

/-- Settles O42: each of the five only advances to the next instruction (R384, R472, R473). -/
theorem hintsAndNopsHaveNoEffect : Obligations.HintsAndNopsHaveNoEffect := by
  intro s rt ra roh rol p i16 next
  exact ⟨.of_advance (exec_hbr roh rol ra p s), .of_advance (exec_hbra roh rol i16 s),
    .of_advance (exec_hbrr roh rol i16 s), .of_advance (exec_lnop s), .of_advance (exec_nop rt s)⟩

end Sys2Proof.Machine
end

section
/-!
PROOFS. The statements about single precision (spec/47_floating_point.md R392 to R429, R437 to R444): each slice is one
value of FP_SINGLE, of a conversion or of a compare, and the laws about the exact results and the one rounding say its
number; the sequences of the estimates run register by register.
-/

namespace Sys2Proof.Machine

/- FPSCR. -/

/-- Settles O53: `fscrwr` masks RA into FPSCR, `fscrrd` writes the masked FPSCR. -/
theorem fpscrIsWrittenAndRead : Obligations.FpscrIsWrittenAndRead := by
  intro s ra rt
  refine ⟨⟨_, exec_fscrwr ra rt s, fun r => State.reg_congr rfl r, rfl, rfl, ?rest⟩, .of_write (exec_fscrrd rt s) rfl⟩
  case rest => exact ⟨fun _ => rfl, ⟨rfl, rfl, rfl, rfl, rfl, rfl, rfl⟩, ⟨rfl, rfl, rfl, rfl⟩, ⟨rfl, rfl⟩⟩

/- The exact results of the operations whose laws Estimate.lean does not have. -/

theorem exact_add (a b c : Word) : (((singleExact .add a b c).1 : ℤ) : ℚ) / 2 ^ (singleExact .add a b c).2 =
    singleValue a + singleValue b := by
  rw [← sx_eq, ← sx_eq, ← add_div, ← Int.cast_add]
  rfl

theorem exact_sub (a b c : Word) : (((singleExact .sub a b c).1 : ℤ) : ℚ) / 2 ^ (singleExact .sub a b c).2 =
    singleValue a - singleValue b := by
  rw [← sx_eq, ← sx_eq, ← sub_div, ← Int.cast_sub]
  rfl

/-- A multiply-subtract is the negated negative multiply-subtract. -/
theorem exact_msub (a b c : Word) : (((singleExact .msub a b c).1 : ℤ) : ℚ) / 2 ^ (singleExact .msub a b c).2 =
    singleValue a * singleValue b - singleValue c := by
  have hneg : (singleExact .msub a b c).1 = -(singleExact .nmsub a b c).1 := (neg_sub _ _).symm
  rw [hneg, Int.cast_neg, neg_div, ← neg_sub, ← exact_nmsub]
  rfl

/- FP_SINGLE, slice by slice. -/

/-- An instruction whose meaning is `singleArith` delivers its exact results through FP_SINGLE. -/
theorem WritesFlags.of_singleArith {i : Instr} {s : State} {op : SingleOp} {rt : Reg} {a b c : Quad}
    {inputs : Nat → List Word} {r : Nat → ℚ} (he : exec i s = s.singleArith op rt a b c)
    (hin : ∀ k, inputs k = singleInputs op (word a k) (word b k) (word c k))
    (hr : ∀ k < 4, ((singleExact op (word a k) (word b k) (word c k)).1 : ℚ) /
      2 ^ (singleExact op (word a k) (word b k) (word c k)).2 = r k) :
    WritesFlags i s rt (SingleSlices s.cfg op a b c inputs r) := by
  refine .of_writeFlags he ⟨_, rfl, fun k hk => ?_⟩
  rw [word_ofWords _ k hk]
  exact fpSingle_spec s.cfg op _ _ _ (inputs k) (r k) (hin k) (hr k hk)

/-- Settles O43: each instruction is `singleArith` on the operation with the exact result named. -/
theorem singleArithmeticRoundsOnce : Obligations.SingleArithmeticRoundsOnce := by
  intro s rt ra rb rc
  exact ⟨.of_singleArith (exec_fs rt ra rb s) (fun _ => rfl) fun _ _ => exact_sub _ _ _,
    .of_singleArith (exec_fm rt ra rb s) (fun _ => rfl) fun _ _ => exact_mul _ _ _,
    .of_singleArith (exec_fma rt ra rb rc s) (fun _ => rfl) fun _ _ => exact_madd _ _ _,
    .of_singleArith (exec_fnms rt ra rb rc s) (fun _ => rfl) fun _ _ => exact_nmsub _ _ _,
    .of_singleArith (exec_fms rt ra rb rc s) (fun _ => rfl) fun _ _ => exact_msub _ _ _,
    .of_singleArith (exec_fa rt ra rb s) (fun _ => rfl) fun _ _ => exact_add _ _ _,
    .of_singleArith (exec_fi rt ra rb s) (fun _ => rfl) fun _ _ => interpolate_eq _ _⟩

/- Conversions. -/

/-- The scale of a conversion from integer, which stands in each slot as a word. -/
theorem toNat_scale {m : Nat} (hm : m ≤ 127) {k : Nat} (hk : k < 4) :
    (word (ofWords fun _ => BitVec.ofNat 32 m) k).toNat = m := by
  rw [word_ofWords _ k hk, BitVec.toNat_ofNat, Nat.mod_eq_of_lt (by omega)]

theorem State.convertFromInt_in_range {scale : Nat} (h : scale ≤ 127) (s : State) (op : SingleOp) (rt : Reg)
    (a : Quad) :
    s.convertFromInt op rt a scale = s.singleArith op rt a (ofWords fun _ => BitVec.ofNat 32 scale) 0#128 := if_pos h

theorem State.convertToInt_in_range {scale : Nat} (h : scale ≤ 127) (s : State) (f : Word → Nat → Word) (rt : Reg)
    (a : Quad) : s.convertToInt f rt a scale = s.write rt (ofWords fun k => f (word a k) scale) := if_pos h

theorem State.convertFromInt_out_of_range {scale : Nat} (h : 127 < scale) (s : State) (op : SingleOp) (rt : Reg)
    (a : Quad) : s.convertFromInt op rt a scale = s.convertUndefined rt := if_neg (Nat.not_le.mpr h)

theorem State.convertToInt_out_of_range {scale : Nat} (h : 127 < scale) (s : State) (f : Word → Nat → Word) (rt : Reg)
    (a : Quad) : s.convertToInt f rt a scale = s.convertUndefined rt := if_neg (Nat.not_le.mpr h)

/-- A conversion to a signed integer saturates the truncated value. -/
theorem toSigned_spec (w : Word) (n : Nat) :
    let r := singleValue w * 2 ^ n
    ∃ i, TruncatesTo |r| i ∧ toSigned w n =
      if r < 0 then (if 2 ^ 31 < i then 0x80000000#32 else BitVec.ofInt 32 (-(i : ℤ)))
      else if 2 ^ 31 - 1 < i then 0x7FFFFFFF#32 else BitVec.ofNat 32 i := by
  refine ⟨truncated w n, truncated_spec w n, ?_⟩
  have hneg : 0#32 - BitVec.ofNat 32 (truncated w n) = BitVec.ofInt 32 (-(truncated w n : ℤ)) := by
    rw [BitVec.zero_sub, BitVec.ofInt_neg, BitVec.ofInt_natCast]
  rw [toSigned, hneg]
  exact if_congr (singleValue_scaled_neg_iff w n).symm rfl rfl

/-- A conversion to an unsigned integer saturates the truncated value, below at zero. -/
theorem toUnsigned_spec (w : Word) (n : Nat) :
    let r := singleValue w * 2 ^ n
    ∃ i, TruncatesTo |r| i ∧ toUnsigned w n =
      if r < 0 then 0#32 else if 2 ^ 32 - 1 < i then 0xFFFFFFFF#32 else BitVec.ofNat 32 i :=
  ⟨truncated w n, truncated_spec w n, if_congr (singleValue_scaled_neg_iff w n).symm rfl rfl⟩

/-- Settles O44: in range, a conversion from integer is `singleArith`, one to integer writes the saturated values. -/
theorem conversionsRoundAndSaturate : Obligations.ConversionsRoundAndSaturate := by
  intro s rt ra i8
  refine ⟨fun hm => ⟨.of_singleArith ((exec_csflt rt ra i8 s).trans (State.convertFromInt_in_range hm _ _ _ _))
        (fun _ => rfl) fun k hk => ?signed,
      .of_singleArith ((exec_cuflt rt ra i8 s).trans (State.convertFromInt_in_range hm _ _ _ _))
        (fun _ => rfl) fun k hk => ?unsigned⟩,
    fun hn => ⟨.of_write ((exec_cflts rt ra i8 s).trans (State.convertToInt_in_range hn _ _ _ _)) fun k hk => ?toSigned,
      .of_write ((exec_cfltu rt ra i8 s).trans (State.convertToInt_in_range hn _ _ _ _)) fun k hk => ?toUnsigned⟩⟩
  case signed => rw [singleExact, toNat_scale hm hk]
  case unsigned => rw [singleExact, toNat_scale hm hk, Int.cast_natCast]
  case toSigned => rw [word_ofWords _ k hk]; exact toSigned_spec _ _
  case toUnsigned => rw [word_ofWords _ k hk]; exact toUnsigned_spec _ _

/-- Settles O45: out of range, each conversion writes a free value and adds free flags. -/
theorem conversionsOutOfRangeComplete : Obligations.ConversionsOutOfRangeComplete := by
  intro s rt ra i8 i h
  have he : exec i s = s.convertUndefined rt := by
    rcases h with ⟨hm, h⟩ | ⟨hn, h⟩
    · rcases List.mem_pair.mp h with rfl | rfl
      · exact (exec_csflt rt ra i8 s).trans (State.convertFromInt_out_of_range hm _ _ _ _)
      · exact (exec_cuflt rt ra i8 s).trans (State.convertFromInt_out_of_range hm _ _ _ _)
    · rcases List.mem_pair.mp h with rfl | rfl
      · exact (exec_cflts rt ra i8 s).trans (State.convertToInt_out_of_range hn _ _ _ _)
      · exact (exec_cfltu rt ra i8 s).trans (State.convertToInt_out_of_range hn _ _ _ _)
  refine ⟨_, singleFlagQuad (Config.freeFlags s.free), he, fun r hr => ?regs, rfl, ?flags, ?rest⟩
  case regs => rw [State.advance_reg, State.reg_setReg_ne _ _ _ _ hr, State.addFlags_reg, State.takeFree_reg]
  case flags => exact singleFlagQuad_mask _
  case rest => exact ⟨fun _ => rfl, ⟨rfl, rfl, rfl, rfl, rfl, rfl, rfl⟩, ⟨rfl, rfl, rfl, rfl⟩, ⟨rfl, rfl⟩⟩

/- Compares. -/

theorem sx_eq_iff (a b : Word) : sx a = sx b ↔ singleValue a = singleValue b := by
  rw [← sx_eq, ← sx_eq, div_left_inj' (by positivity), Int.cast_inj]

theorem sx_lt_iff (a b : Word) : sx a < sx b ↔ singleValue a < singleValue b := by
  rw [← sx_eq, ← sx_eq, div_lt_div_iff_of_pos_right (by positivity), Int.cast_lt]

/-- The magnitude in units of 2^-149. -/
theorem natAbs_sx_eq (w : Word) : ((sx w).natAbs : ℚ) / 2 ^ 149 = |singleValue w| := by
  rw [← sx_eq, abs_div, abs_of_pos (by positivity : (0 : ℚ) < 2 ^ 149), Nat.cast_natAbs, Int.cast_abs]

theorem natAbs_sx_eq_iff (a b : Word) : (sx a).natAbs = (sx b).natAbs ↔ |singleValue a| = |singleValue b| := by
  rw [← natAbs_sx_eq, ← natAbs_sx_eq, div_left_inj' (by positivity), Nat.cast_inj]

theorem natAbs_sx_lt_iff (a b : Word) : (sx a).natAbs < (sx b).natAbs ↔ |singleValue a| < |singleValue b| := by
  rw [← natAbs_sx_eq, ← natAbs_sx_eq, div_lt_div_iff_of_pos_right (by positivity), Nat.cast_lt]

/-- Settles O47: each compare writes truth masks of the values, or magnitudes, as integers. -/
theorem singleComparesCompareValues : Obligations.SingleComparesCompareValues := by
  intro s rt ra rb
  exact ⟨.of_write (exec_fceq rt ra rb s) (word_truths fun _ => beq_iff_eq.trans (sx_eq_iff _ _)),
    .of_write (exec_fcmeq rt ra rb s) (word_truths fun _ => beq_iff_eq.trans (natAbs_sx_eq_iff _ _)),
    .of_write (exec_fcgt rt ra rb s) (word_truths fun _ => decide_eq_true_iff.trans (sx_lt_iff _ _)),
    .of_write (exec_fcmgt rt ra rb s) (word_truths fun _ => decide_eq_true_iff.trans (natAbs_sx_lt_iff _ _))⟩

end Sys2Proof.Machine
end

section
/-!
PROOFS. The statement about the estimates (spec/47_floating_point.md R423, R424, R443, R444): the instructions of a
sequence run register by register, so that each slice of the last register is `reciprocalSequence` or `rootSequence` of
the estimate, of which Estimate.lean says what the spec states.
-/

namespace Sys2Proof.Machine

/- One instruction of a sequence. -/

/-- `i` completes, slot `k` of register `rt` receives `f k`, every other register and the configuration stay. -/
def SetsWords (i : Instr) (rt : Reg) (f : Nat → Word) (s t : State) : Prop :=
  exec i s = .next t ∧ SameRegsBut rt s t ∧ t.cfg = s.cfg ∧ ∀ k < 4, word (t.reg rt) k = f k

section
variable {i : Instr} {s : State} {rt : Reg} {f : Nat → Word}

theorem WritesFlags.setsWords (h : WritesFlags i s rt fun q _ => ∀ k < 4, word q k = f k) :
    ∃ t, SetsWords i rt f s t := by
  obtain ⟨t, flags, he, hframe, hq⟩ := h
  exact ⟨t, he, hframe.regs, hframe.rest.env.cfg, hq⟩

theorem Writes.setsWords (h : Writes i s rt fun q => ∀ k < 4, word q k = f k) : ∃ t, SetsWords i rt f s t := by
  obtain ⟨t, he, hframe, hq⟩ := h
  exact ⟨t, he, hframe.regs, hframe.rest.env.cfg, hq⟩

theorem setsWords_estimate {table : Word → Word} {ra : Reg} (he : exec i s = s.estimate table rt (s.reg ra)) :
    ∃ t, SetsWords i rt (fun k => table (word (s.reg ra) k)) s t :=
  WritesFlags.setsWords (.of_writeFlags he (words_of_slots id fun _ _ => rfl))

/-- Where the configuration says so, each slice of `singleArith` is the reference function. -/
theorem setsWords_singleArith (hc : s.cfg.fpSingleRef = true) {op : SingleOp} {a b c : Quad}
    (he : exec i s = s.singleArith op rt a b c) :
    ∃ t, SetsWords i rt (fun k => (singleReference op (word a k) (word b k) (word c k)).1) s t := by
  refine WritesFlags.setsWords (.of_writeFlags he (words_of_slots id fun k _ => ?_))
  rw [fpSingle, if_pos hc]
  rfl

end

/- The estimates themselves. -/

/-- The sign of `x` cleared: the operand of the sequence of R444. -/
theorem and_magnitude (x : Word) : x &&& 0x7FFFFFFF#32 = 0#1 ++ x.extractLsb' 0 31 := by
  rw [show 0#1 ++ x.extractLsb' 0 31 = (x.extractLsb' 0 31).setWidth 32 from zero_append_eq_setWidth 1 _]
  apply BitVec.eq_of_toNat_eq
  rw [BitVec.toNat_and, BitVec.toNat_setWidth, toNat_extract]
  exact (Nat.and_two_pow_sub_one_eq_mod x.toNat 31).trans (by omega)

/-- The sign of the operand is ignored (R424). -/
theorem rootEstimate_magnitude (x : Word) : rootEstimate (x &&& 0x7FFFFFFF#32) = rootEstimate x := by
  have h : (x &&& 0x7FFFFFFF#32).extractLsb' 0 31 = x.extractLsb' 0 31 := by
    rw [and_magnitude, extract_low _ _ (by omega), extract_all]
  rw [rootEstimate, rootEstimate, h]

theorem rootEstimate_sign (x : Word) : (rootEstimate x).getLsbD 31 = false := (rootOk_estimate x).2

/- What the sequences deliver, said of the model's checks of an estimate. -/

theorem singleValue_of_zero_exponent {x : Word} (h : sExp x = 0) : singleValue x = 0 := if_pos h

theorem abs_singleValue {x : Word} (h : sExp x ≠ 0) :
    |singleValue x| = (2 ^ 23 + sFrac x : ℕ) * 2 ^ ((sExp x : ℤ) - 150) := by
  rw [mantissa_sign x h, withSign_abs, abs_of_nonneg (by positivity)]

/-- The magnitudes of 2^126 or more, whose reciprocal is below Smin. -/
theorem large_iff (x : Word) : 2 ^ 126 ≤ |singleValue x| ↔ 253 ≤ sExp x := by
  by_cases h0 : sExp x = 0
  · rw [singleValue_of_zero_exponent h0, h0]
    norm_num
  have hf := sFrac_lt x
  rw [abs_singleValue h0]
  constructor
  · intro h
    by_contra hlt
    have hp : (2 : ℚ) ^ ((sExp x : ℤ) - 150) ≤ 2 ^ (102 : ℤ) := zpow_le_zpow_right₀ (by norm_num) (by omega)
    have hm : ((2 ^ 23 + sFrac x : ℕ) : ℚ) < 2 ^ 24 := by exact_mod_cast (by omega : 2 ^ 23 + sFrac x < 2 ^ 24)
    have hlt' := mul_lt_mul hm hp (by positivity) (by positivity)
    exact absurd (h.trans_lt hlt') (by norm_num)
  · intro h
    have hp : (2 : ℚ) ^ (103 : ℤ) ≤ 2 ^ ((sExp x : ℤ) - 150) := zpow_le_zpow_right₀ (by norm_num) (by omega)
    have hm : (2 ^ 23 : ℚ) ≤ (2 ^ 23 + sFrac x : ℕ) := by exact_mod_cast Nat.le_add_right _ _
    calc (2 : ℚ) ^ 126 = 2 ^ 23 * 2 ^ (103 : ℤ) := by norm_num
      _ ≤ _ := mul_le_mul hm hp (by positivity) (by positivity)

theorem reciprocalResult_of_ok {x y0 : Word} (h : reciprocalOk x y0 = true) :
    ReciprocalResult x (reciprocalSequence x y0) := by
  refine ⟨fun h0 => ?_, fun hlarge => ?_, fun h0 hsmall => ?_⟩
  · simpa only [reciprocalOk, if_pos h0, beq_iff_eq] using h
  · have he := (large_iff x).mp hlarge
    simpa only [reciprocalOk, if_neg (by omega : ¬sExp x = 0), if_pos he, beq_iff_eq] using h
  · have he := mt (large_iff x).mpr (not_le.mpr hsmall)
    simp only [reciprocalOk, if_neg h0, if_neg he, Bool.or_eq_true] at h
    rcases h with h | h
    · exact ⟨_, .inl rfl, (isReciprocal_iff x _).mp h⟩
    · exact ⟨_, .inr rfl, (isReciprocal_iff x _).mp h⟩

/-- The fields of a word with its sign cleared. -/
theorem magnitude_fields (x : Word) : sExp (x &&& 0x7FFFFFFF#32) = sExp x ∧ sFrac (x &&& 0x7FFFFFFF#32) = sFrac x ∧
    (x &&& 0x7FFFFFFF#32).getLsbD 31 = false := by
  rw [and_magnitude]
  refine ⟨?_, ?_, ?_⟩
  · rw [sExp, extract_low _ _ (by omega), extract_extract _ (by omega)]
    rfl
  · rw [sFrac, extract_low _ _ (by omega), extract_extract _ (by omega)]
    rfl
  · rw [BitVec.getLsbD_append]
    simp

theorem singleValue_magnitude (x : Word) : singleValue (x &&& 0x7FFFFFFF#32) = |singleValue x| := by
  obtain ⟨he, hf, hs⟩ := magnitude_fields x
  by_cases h0 : sExp x = 0
  · rw [singleValue_of_zero_exponent h0, singleValue_of_zero_exponent (he.trans h0), abs_zero]
  · rw [mantissa_sign _ (he.trans_ne h0), abs_singleValue h0, he, hf, hs]
    rfl

theorem rootIs_of_isRoot {x y : Word} (h : isRoot (x &&& 0x7FFFFFFF#32) y = true) : RootIs x y := by
  rw [isRoot_iff, singleValue_magnitude] at h
  exact h

theorem rootResult_of_ok {x y0 : Word} (h : rootOk (x &&& 0x7FFFFFFF#32) y0 = true) :
    RootResult x (rootSequence (x &&& 0x7FFFFFFF#32) y0) := by
  obtain ⟨he, hf, -⟩ := magnitude_fields x
  rw [rootOk, he, hf] at h
  refine ⟨fun h0 hsmall => ?_, fun h0 => ?_, fun h0 => ?_⟩
  · simpa only [if_pos h0, if_pos hsmall, beq_iff_eq] using h
  · simp only [if_pos h0] at h
    split at h
    · rw [beq_iff_eq.mp h]
      decide
    · simp only [Bool.and_eq_true, decide_eq_true_eq, BitVec.le_def, Bool.not_eq_true', sign_toNat,
        decide_eq_false_iff_not] at h
      obtain ⟨hlo, hsign⟩ := h
      have hlt := (rootSequence (x &&& 0x7FFFFFFF#32) y0).isLt
      exact ⟨hlo, by omega⟩
  · simp only [if_neg h0, Bool.or_eq_true] at h
    rcases h with (h | h) | h
    · exact ⟨_, .inr (.inr (BitVec.sub_add_cancel _ _).symm), rootIs_of_isRoot h⟩
    · exact ⟨_, .inl rfl, rootIs_of_isRoot h⟩
    · exact ⟨_, .inr (.inl rfl), rootIs_of_isRoot h⟩

/- The sequences, register by register: of each instruction its run `e`, the registers `r` and the configuration `c`
it leaves, and the words `w` it writes. -/

/-- The four instructions of R443 compute `reciprocalSequence` of the estimate. -/
theorem runs_reciprocal {s : State} {x one y0 y1 t1 : Reg} (y2 : Reg) (hc : s.cfg.fpSingleRef = true)
    (hne : [x, one, y0, y1, t1].Nodup) (hone : ∀ k < 4, word (s.reg one) k = 0x3F800000#32) :
    ∃ t, RunsTo [.frest y0 x, .fi y1 x y0, .fnms t1 x y1 one, .fma y2 t1 y1 y1] s t ∧ ∀ k < 4,
      word (t.reg y2) k = reciprocalSequence (word (s.reg x) k) (reciprocalEstimate (word (s.reg x) k)) := by
  simp only [List.nodup_cons, List.mem_cons, List.not_mem_nil, or_false, not_or] at hne
  obtain ⟨⟨hx1, hx2, hx3, hx4⟩, ⟨ho1, ho2, ho3⟩, ⟨hy1, hy2⟩, hy3, -⟩ := hne
  obtain ⟨a, ea, ra, ca, wa⟩ := setsWords_estimate (exec_frest y0 x s)
  obtain ⟨b, eb, rb, cb, wb⟩ := setsWords_singleArith (by rw [ca, hc]) (exec_fi y1 x y0 a)
  obtain ⟨c, ec, rc, cc, wc⟩ := setsWords_singleArith (by rw [cb, ca, hc]) (exec_fnms t1 x y1 one b)
  obtain ⟨d, ed, -, -, wd⟩ := setsWords_singleArith (by rw [cc, cb, ca, hc]) (exec_fma y2 t1 y1 y1 c)
  refine ⟨d, ⟨a, ea, b, eb, c, ec, d, ed, rfl⟩, fun k hk => ?_⟩
  beta_reduce at wa wb wc wd
  rw [wd k hk, wc k hk, rc y1 hy3, wb k hk, rb x hx3, rb one ho2, ra x hx2, ra one ho1, wa k hk, hone k hk]
  rfl

/-- The seven instructions of R444 compute `rootSequence` of the estimate. -/
theorem runs_root {s : State} {x mask half one y0 ax y1 t1 t2 : Reg} (y2 : Reg) (hc : s.cfg.fpSingleRef = true)
    (hne : [x, mask, half, one, y0, ax, y1, t1, t2].Nodup) (hmask : ∀ k < 4, word (s.reg mask) k = 0x7FFFFFFF#32)
    (hhalf : ∀ k < 4, word (s.reg half) k = 0x3F000000#32) (hone : ∀ k < 4, word (s.reg one) k = 0x3F800000#32) :
    ∃ t, RunsTo [.frsqest y0 x, .and ax x mask, .fi y1 ax y0, .fm t1 ax y1, .fm t2 y1 half, .fnms t1 t1 y1 one,
        .fma y2 t1 t2 y1] s t ∧ ∀ k < 4, word (t.reg y2) k =
      rootSequence (word (s.reg x) k &&& 0x7FFFFFFF#32) (rootEstimate (word (s.reg x) k)) := by
  simp only [List.nodup_cons, List.mem_cons, List.not_mem_nil, or_false, not_or] at hne
  obtain ⟨⟨-, -, -, hx, -⟩, ⟨-, -, hm, -⟩, ⟨-, hh0, hhax, hh1, hht, -⟩, ⟨ho0, hoax, ho1, hot1, hot2⟩,
    ⟨h0ax, -⟩, ⟨hax1, -⟩, ⟨h1t1, h1t2⟩, htt, -⟩ := hne
  obtain ⟨a, ea, ra, ca, wa⟩ := setsWords_estimate (exec_frsqest y0 x s)
  obtain ⟨b, eb, rb, cb, wb⟩ := Writes.setsWords (.of_write (exec_and ax x mask a) fun k _ => word_and _ _ k)
  obtain ⟨c, ec, rc, cc, wc⟩ := setsWords_singleArith (by rw [cb, ca, hc]) (exec_fi y1 ax y0 b)
  obtain ⟨d, ed, rd, cd, wd⟩ := setsWords_singleArith (by rw [cc, cb, ca, hc]) (exec_fm t1 ax y1 c)
  obtain ⟨e, ee, re, ce, we⟩ := setsWords_singleArith (by rw [cd, cc, cb, ca, hc]) (exec_fm t2 y1 half d)
  obtain ⟨f, ef, rf, cf, wf⟩ := setsWords_singleArith (by rw [ce, cd, cc, cb, ca, hc]) (exec_fnms t1 t1 y1 one e)
  obtain ⟨g, eg, -, -, wg⟩ := setsWords_singleArith (by rw [cf, ce, cd, cc, cb, ca, hc]) (exec_fma y2 t1 t2 y1 f)
  refine ⟨g, ⟨a, ea, b, eb, c, ec, d, ed, e, ee, f, ef, g, eg, rfl⟩, fun k hk => ?_⟩
  beta_reduce at wa wb wc wd we wf wg
  rw [wg k hk, wf k hk, rf t2 (Ne.symm htt), rf y1 h1t1, we k hk, re t1 htt, re y1 h1t2, re one hot2, wd k hk,
    rd y1 h1t1, rd half hht, rd one hot1, wc k hk, rc ax hax1, rc half hh1, rc one ho1, wb k hk, rb y0 h0ax,
    rb half hhax, rb one hoax, wa k hk, ra x hx, ra mask hm, ra half hh0, ra one ho0, hmask k hk, hhalf k hk, hone k hk]
  rfl

/-- Settles O46: the tables with the flag of the zero exponents, and the two sequences. -/
theorem estimatesSetDivideByZeroAndAreAccurate : Obligations.EstimatesSetDivideByZeroAndAreAccurate := by
  refine ⟨fun s rt ra => ⟨?frest, ?frsqest⟩, ?reciprocal, ?root⟩
  case frest =>
    exact .of_writeFlags (exec_frest rt ra s) ⟨words_of_slots id fun _ _ => rfl, dbzQuad_getLsbD _⟩
  case frsqest =>
    refine .of_writeFlags (exec_frsqest rt ra s) ⟨fun k hk => ?_, dbzQuad_getLsbD _⟩
    rw [word_ofWords _ k hk, rootEstimate_magnitude]
    exact ⟨rootEstimate_sign _, rfl⟩
  case reciprocal =>
    intro s x one y0 y1 t1 y2 hc hne hone
    obtain ⟨t, ht, hw⟩ := runs_reciprocal y2 hc hne hone
    exact ⟨t, ht, fun k hk => hw k hk ▸ reciprocalResult_of_ok (reciprocalOk_estimate _)⟩
  case root =>
    intro s x mask half one y0 ax y1 t1 t2 y2 hc hne hmask hhalf hone
    obtain ⟨t, ht, hw⟩ := runs_root y2 hc hne hmask hhalf hone
    exact ⟨t, ht, fun k hk => hw k hk ▸ rootResult_of_ok (and_magnitude _ ▸ (rootOk_estimate _).1)⟩

end Sys2Proof.Machine
end

section
/-!
PROOFS. The statements about double precision (spec/47_floating_point.md R397 to R404, R411 to R436): each slice is one
value of FP_DOUBLE, of a format conversion, a compare or a test. Of FP_DOUBLE the operations on infinities and NaNs are
told apart here (`SpecialResult`); the rounding of finite operands is `dresult_finite`.
-/

namespace Sys2Proof.Machine

/- Slices. -/

section
variable {i : Instr} {s : State} {rt : Reg}

/-- An instruction that writes two doublewords and their flags. -/
theorem DoubleSlices.of_writeFlags {v : Nat → Dword} {f : Nat → DoubleFlags} {P : Nat → Dword → DoubleFlags → Prop}
    (he : exec i s = s.writeFlags rt (ofDwords v) (doubleFlagQuad f)) (h : ∀ k < 2, P k (v k) (f k)) :
    DoubleSlices i s rt P :=
  WritesFlags.of_writeFlags he ⟨f, rfl, fun k hk => (dword_ofDwords v k hk).symm ▸ h k hk⟩

theorem DoubleSlices.of_doubleArith {op : DoubleOp} {post : Dword → Dword} {a b c : Quad}
    {P : Nat → Dword → DoubleFlags → Prop} (he : exec i s = s.doubleArith op post rt a b c)
    (h : ∀ k < 2, P k (post (fpDouble s.cfg op (roundMode s.fpscr k) (dword a k) (dword b k) (dword c k)).1)
      (fpDouble s.cfg op (roundMode s.fpscr k) (dword a k) (dword b k) (dword c k)).2) :
    DoubleSlices i s rt P := .of_writeFlags he h

end

theorem dword_zero (k : Nat) : dword 0#128 k = 0#64 := BitVec.extractLsb'_zero

/- Finite operands. -/

/-- What one slice of an arithmetic instruction delivers for finite operands, by the reference function and
by another. -/
def DeliversRounded (s : State) (ra rb : Reg) (op : DoubleOp) (post : Dword → Dword) (c : Nat → Dword)
    (inputs : List Reg) (k : Nat) (d : Dword) (f : DoubleFlags) : Prop :=
  let mode := roundMode s.fpscr k
  let x := flush s.cfg (dword (s.reg ra) k)
  let y := flush s.cfg (dword (s.reg rb) k)
  let z := flush s.cfg (c k)
  (s.cfg.fpDoubleRef = true → (∀ r ∈ inputs, dFinite (dword (s.reg r) k)) →
    ∃ p g, DoubleRounds mode (doubleZeroSign op mode x y z) (doubleExact op x y z) p g ∧ d = post p ∧
      f = { g with denorm := inputs.any fun r => flushed s.cfg (dword (s.reg r) k) }) ∧
  (s.cfg.fpDoubleRef = false →
    ∃ p, Config.fpDoubleOther op mode (dword (s.reg ra) k) (dword (s.reg rb) k) (c k) = (p, f) ∧ d = post p)

theorem doubleInputs_finite {op : DoubleOp} {a b c : Dword} (h : ∀ d ∈ doubleInputs op a b c, dFinite d) :
    dFinite a ∧ dFinite b ∧ (op = .madd ∨ op = .msub → dFinite c) := by
  cases op <;> simp_all [doubleInputs]

theorem DoubleSlices.of_doubleArith_rounds {i : Instr} {s : State} {op : DoubleOp} {post : Dword → Dword}
    {rt ra rb : Reg} {q : Quad} {c : Nat → Dword} {inputs : List Reg}
    (he : exec i s = s.doubleArith op post rt (s.reg ra) (s.reg rb) q) (hc : ∀ k, c k = dword q k)
    (hin : ∀ k, doubleInputs op (dword (s.reg ra) k) (dword (s.reg rb) k) (c k) =
      inputs.map fun r => dword (s.reg r) k) :
    DoubleSlices i s rt (DeliversRounded s ra rb op post c inputs) := by
  refine .of_doubleArith he fun k _ => ⟨fun href hfin => ?reference, fun hother => ?other⟩
  case reference =>
    rw [← hc k, fpDouble, if_pos href, doubleReference, hin k]
    have hfin' : ∀ d ∈ doubleInputs op (dword (s.reg ra) k) (dword (s.reg rb) k) (c k), dFinite d := by
      rw [hin k]
      exact fun d hd => by obtain ⟨r, hr, rfl⟩ := List.mem_map.mp hd; exact hfin r hr
    obtain ⟨ha, hb, hz⟩ := doubleInputs_finite hfin'
    refine ⟨_, _, dresult_finite s.cfg op _ _ _ _ (ha.flush _) (hb.flush _) fun h => (hz h).flush _, rfl, ?_⟩
    rw [List.any_map]
    rfl
  case other =>
    rw [← hc k, fpDouble, hother, if_neg Bool.false_ne_true]
    exact ⟨_, rfl, rfl⟩

/-- Settles O48: each instruction is `doubleArith` on the operation named, followed by the negation it has. -/
theorem doubleArithmeticRoundsOnce : Obligations.DoubleArithmeticRoundsOnce := by
  intro s rt ra rb
  have hzero : ∀ k, 0#64 = dword 0#128 k := fun k => (dword_zero k).symm
  exact ⟨.of_doubleArith_rounds (exec_dfa rt ra rb s) hzero fun _ => rfl,
    .of_doubleArith_rounds (exec_dfs rt ra rb s) hzero fun _ => rfl,
    .of_doubleArith_rounds (exec_dfm rt ra rb s) hzero fun _ => rfl,
    .of_doubleArith_rounds (exec_dfma rt ra rb s) (fun _ => rfl) fun _ => rfl,
    .of_doubleArith_rounds (exec_dfms rt ra rb s) (fun _ => rfl) fun _ => rfl,
    .of_doubleArith_rounds (exec_dfnms rt ra rb s) (fun _ => rfl) fun _ => rfl,
    .of_doubleArith_rounds (exec_dfnma rt ra rb s) (fun _ => rfl) fun _ => rfl⟩

/- Infinities. -/

/-- A sum with an infinite term that is not invalid is the infinity. -/
theorem dAdd_infinite {mode : BitVec 2} {a b : Dword} (hvalid : ¬(dInf a ∧ dInf b ∧ dSign a ≠ dSign b))
    (hinf : dInf a = true ∨ dInf b = true) :
    dAdd mode a b = (infinity (if dInf a then dSign a else dSign b), DoubleFlags.none) := by
  have hv : ¬(dInf a && dInf b && dSign a != dSign b) = true := by
    simpa only [Bool.and_eq_true, bne_iff_ne, and_assoc] using hvalid
  rw [dAdd, if_neg hv]
  by_cases ha : dInf a = true
  · rw [if_pos ha, if_pos ha]
  · rw [if_neg ha, if_pos (hinf.resolve_left ha), if_neg ha]

theorem dAdd_invalid {mode : BitVec 2} {a b : Dword} (h : dInf a ∧ dInf b ∧ dSign a ≠ dSign b) :
    dAdd mode a b = invalidResult := by
  refine if_pos ?_
  simpa only [Bool.and_eq_true, bne_iff_ne, and_assoc] using h

/-- An infinity times a zero. -/
def TimesZero (a b : Dword) : Prop := dInf a ∧ dZero b ∨ dZero a ∧ dInf b

theorem timesZero_iff (a b : Dword) : (dInf a && dZero b || dZero a && dInf b) = true ↔ TimesZero a b := by
  simp only [TimesZero, Bool.or_eq_true, Bool.and_eq_true]

theorem dMul_infinite {mode : BitVec 2} {a b : Dword} (hvalid : ¬TimesZero a b) (hinf : dInf a = true ∨ dInf b = true) :
    dMul mode a b = (infinity (dSign a != dSign b), DoubleFlags.none) := by
  rw [dMul, if_neg (mt (timesZero_iff a b).mp hvalid), if_pos (Bool.or_eq_true_iff.mpr hinf)]

theorem dMul_invalid {mode : BitVec 2} {a b : Dword} (h : TimesZero a b) : dMul mode a b = invalidResult :=
  if_pos ((timesZero_iff a b).mpr h)

/-- A product plus a term, one of them infinite, that is not invalid is the infinity. -/
theorem dMadd_infinite {mode : BitVec 2} {a b c : Dword} (hzero : ¬TimesZero a b)
    (hvalid : ¬((dInf a = true ∨ dInf b = true) ∧ dInf c ∧ (dSign a != dSign b) ≠ dSign c))
    (hinf : dInf a = true ∨ dInf b = true ∨ dInf c = true) :
    dMadd mode a b c =
      (infinity (if dInf a || dInf b then dSign a != dSign b else dSign c), DoubleFlags.none) := by
  rw [dMadd, if_neg (mt (timesZero_iff a b).mp hzero)]
  by_cases hab : (dInf a || dInf b) = true
  · have hc : ¬(dInf c && dSign c != (dSign a != dSign b)) = true := fun h => by
      rw [Bool.and_eq_true, bne_iff_ne] at h
      exact hvalid ⟨Bool.or_eq_true_iff.mp hab, h.1, h.2.symm⟩
    rw [if_pos hab, if_neg hc, if_pos hab]
  · have hc : dInf c = true := (or_assoc.mpr hinf).resolve_left fun h => hab (Bool.or_eq_true_iff.mpr h)
    rw [if_neg hab, if_pos hc, if_neg hab]

/- NaNs, infinities and invalid operations, as the instruction delivers them. -/

/-- What the negating forms do to the rounded result, and the others do not. -/
def negating (clear : Bool) : Dword → Dword := if clear then negateResult else id

theorem negating_nan {d : Dword} (h : dNaN d = true) (clear : Bool) :
    negating clear d = if clear then d &&& 0x7FFFFFFFFFFFFFFF#64 else d := by
  cases clear
  · rfl
  · exact if_pos h

theorem negating_defaultNaN (clear : Bool) : negating clear defaultNaN = defaultNaN := by
  cases clear <;> decide

theorem negating_infinity (clear neg : Bool) : negating clear (infinity neg) = infinity (neg != clear) := by
  cases clear <;> cases neg <;> decide

/-- A slice with a NaN among its operands, an invalid operation, or an infinite operand delivers `d` and `f`. -/
def SpecialResult (cfg : Config) (clear : Bool) (inputs : List Dword) (bad inf : Prop) (neg : Bool) (d : Dword)
    (f : DoubleFlags) : Prop :=
  ((cfg.dpNanDefault = true → inputs.any dNaN = true →
      d = 0x7FF8000000000000#64 ∧ f.nan = true ∧ f.inv = inputs.any dSNaN ∧ f.ovf = false ∧ f.unf = false ∧
      f.inx = false) ∧
    (cfg.dpNanDefault = false → inputs.any dNaN = true →
      (∃ x ∈ inputs, ∃ p, dNaN x = true ∧ dNaN p = true ∧ dSNaN p = false ∧ (dSNaN x = false → p = x) ∧
        d = if clear then p &&& 0x7FFFFFFFFFFFFFFF#64 else p) ∧
      f.nan = false ∧ f.inv = inputs.any dSNaN ∧ f.ovf = false ∧ f.unf = false ∧ f.inx = false)) ∧
  (bad → d = 0x7FF8000000000000#64 ∧ f.inv = true ∧ f.nan = false ∧ f.ovf = false ∧ f.unf = false ∧ f.inx = false) ∧
  (inputs.any dNaN = false → ¬bad → inf → d = BitVec.ofBool neg ++ 0x7FF0000000000000#63 ∧
    f = { DoubleFlags.none with denorm := inputs.any (flushed cfg) })

/-- A NaN is no denormal. -/
theorem flush_of_dNaN {d : Dword} (h : dNaN d = true) (cfg : Config) : flush cfg d = d := by
  rcases flush_cases cfg d with e | ⟨h0, -⟩
  · exact e
  · simp [dNaN, h0] at h

theorem any_dNaN_flush (cfg : Config) (l : List Dword) : (l.map (flush cfg)).any dNaN = l.any dNaN := by
  rw [List.any_map]
  exact congrArg l.any (funext fun d => dNaN_flush cfg d)

theorem any_dSNaN_flush (cfg : Config) (l : List Dword) : (l.map (flush cfg)).any dSNaN = l.any dSNaN := by
  rw [List.any_map]
  exact congrArg l.any (funext fun d => dSNaN_flush cfg d)

section
variable {cfg : Config} {op : DoubleOp} {mode : BitVec 2} {a b c : Dword}

theorem dresult_nan (h : (doubleInputs op a b c).any dNaN = true) :
    dresult cfg op mode a b c = nanResult cfg op a b c := if_pos h

theorem dresult_add (h : [a, b].any dNaN = false) : dresult cfg .add mode a b c = dAdd mode a b :=
  if_neg (Bool.eq_false_iff.mp h)
theorem dresult_sub (h : [a, b].any dNaN = false) : dresult cfg .sub mode a b c = dAdd mode a (dNeg b) :=
  if_neg (Bool.eq_false_iff.mp h)
theorem dresult_mul (h : [a, b].any dNaN = false) : dresult cfg .mul mode a b c = dMul mode a b :=
  if_neg (Bool.eq_false_iff.mp h)
theorem dresult_madd (h : [a, b, c].any dNaN = false) : dresult cfg .madd mode a b c = dMadd mode a b c :=
  if_neg (Bool.eq_false_iff.mp h)
theorem dresult_msub (h : [a, b, c].any dNaN = false) : dresult cfg .msub mode a b c = dMadd mode a b (dNeg c) :=
  if_neg (Bool.eq_false_iff.mp h)

/-- The special results of the reference function, from the result `r` of the operation on numbers. -/
theorem SpecialResult.of_number {clear neg neg' : Bool} {inputs : List Dword} {bad inf : Prop}
    {r : Dword × DoubleFlags} (hin : doubleInputs op a b c = inputs)
    (hr : (inputs.map (flush cfg)).any dNaN = false →
      dresult cfg op mode (flush cfg a) (flush cfg b) (flush cfg c) = r)
    (hbad : bad → inputs.any dNaN = false ∧ r = invalidResult)
    (hinf : inputs.any dNaN = false → ¬bad → inf → r = (infinity neg', DoubleFlags.none))
    (hneg : neg = (neg' != clear)) :
    SpecialResult cfg clear inputs bad inf neg (negating clear (doubleReference cfg op mode a b c).1)
      (doubleReference cfg op mode a b c).2 := by
  subst hin
  have hflush := doubleInputs_flush cfg op a b c
  rw [any_dNaN_flush] at hr
  have hnan (h : (doubleInputs op a b c).any dNaN = true) :
      dresult cfg op mode (flush cfg a) (flush cfg b) (flush cfg c) =
        nanResult cfg op (flush cfg a) (flush cfg b) (flush cfg c) :=
    dresult_nan (by rwa [hflush, any_dNaN_flush])
  unfold doubleReference
  refine ⟨⟨fun hd h => ?default, fun hp h => ?propagate⟩, fun h => ?invalid, fun hn hb hi => ?infinite⟩
  case default =>
    rw [hnan h, nanResult, hflush, any_dSNaN_flush, if_pos hd]
    exact ⟨negating_defaultNaN clear, rfl, rfl, rfl, rfl, rfl⟩
  case propagate =>
    obtain ⟨x, hx, p, hp, hxn, hpn, hq, hpx⟩ := nanResult_propagates hp op (flush cfg a) (flush cfg b) (flush cfg c)
      (by rwa [hflush, any_dNaN_flush])
    rw [hflush] at hx hp
    obtain ⟨y, hy, rfl⟩ := List.mem_map.mp hx
    rw [dNaN_flush] at hxn
    rw [flush_of_dNaN hxn] at hpx
    rw [hnan h, hp, any_dSNaN_flush]
    exact ⟨⟨y, hy, p, hxn, hpn, hq, hpx, negating_nan hpn clear⟩, rfl, rfl, rfl, rfl, rfl⟩
  case invalid =>
    obtain ⟨hn, hi⟩ := hbad h
    rw [hr hn, hi]
    exact ⟨negating_defaultNaN clear, rfl, rfl, rfl, rfl, rfl⟩
  case infinite =>
    rw [hr hn, hinf hn hb hi]
    exact ⟨hneg ▸ negating_infinity clear neg', rfl⟩

/-- An infinity times what is a zero once denormals are made zero. -/
def InvalidProduct (cfg : Config) (a b : Dword) : Prop :=
  dInf a ∧ dZero (flush cfg b) ∨ dZero (flush cfg a) ∧ dInf b

/-- A product with an infinite factor, the other factor finite or infinite. -/
def InfiniteProduct (a b : Dword) : Prop := dInf a ∧ dExp b ≠ 2047 ∨ dInf b ∧ dExp a ≠ 2047 ∨ dInf a ∧ dInf b

/-- The invalid cases of a product plus a term: an infinity times a zero, infinities of opposite sign. -/
def InvalidSum (cfg : Config) (a b t : Dword) : Prop :=
  InvalidProduct cfg a b ∨ InfiniteProduct a b ∧ dInf t ∧ (dSign a != dSign b) ≠ dSign t

theorem timesZero_flush_iff : TimesZero (flush cfg a) (flush cfg b) ↔ InvalidProduct cfg a b := by
  rw [TimesZero, dInf_flush, dInf_flush, InvalidProduct]

theorem InvalidProduct.notNaN (h : InvalidProduct cfg a b) : dNaN a = false ∧ dNaN b = false := by
  rcases h with ⟨ha, hb⟩ | ⟨ha, hb⟩
  · exact ⟨dNaN_of_dInf ha, dNaN_of_dZero_flush hb⟩
  · exact ⟨dNaN_of_dZero_flush ha, dNaN_of_dInf hb⟩

theorem dInf_of_dExp {d : Dword} (h : dExp d = 2047) (hn : dNaN d = false) : dInf d = true := by
  simpa [dInf, dNaN, h] using hn

theorem InfiniteProduct.of_dInf (ha : dNaN a = false) (hb : dNaN b = false) (h : dInf a = true ∨ dInf b = true) :
    InfiniteProduct a b := by
  by_cases hea : dExp a = 2047
  · have hia := dInf_of_dExp hea ha
    by_cases heb : dExp b = 2047
    · exact .inr (.inr ⟨hia, dInf_of_dExp heb hb⟩)
    · exact .inl ⟨hia, heb⟩
  · exact .inr (.inl ⟨h.resolve_left fun hia => hea (beq_iff_eq.mp (Bool.and_eq_true_iff.mp hia).1), hea⟩)

/-- A product plus a term, one of the operands infinite; `u` is the term with its denormal made zero. -/
theorem dMadd_flush_infinite {t u : Dword} (hinfu : dInf u = dInf t) (hsign : dSign u = dSign t) (ha : dNaN a = false)
    (hb : dNaN b = false) (hvalid : ¬InvalidSum cfg a b t)
    (hinf : dInf a = true ∨ dInf b = true ∨ dInf t = true) : dMadd mode (flush cfg a) (flush cfg b) u =
      (infinity (if dInf a || dInf b then dSign a != dSign b else dSign t), DoubleFlags.none) := by
  have h := dMadd_infinite (mode := mode) (a := flush cfg a) (b := flush cfg b) (c := u)
    (fun h => hvalid (.inl (timesZero_flush_iff.mp h)))
  simp only [dInf_flush, dSign_flush, hinfu, hsign] at h
  exact h (fun ⟨hab, hrest⟩ => hvalid (.inr ⟨InfiniteProduct.of_dInf ha hb hab, hrest⟩)) hinf

/- Operands of which none has a property. -/

theorem any_two {p : Dword → Bool} : [a, b].any p = false ↔ p a = false ∧ p b = false := by simp
theorem any_three {p : Dword → Bool} : [a, b, c].any p = false ↔ p a = false ∧ p b = false ∧ p c = false := by simp

/- The special results, operation by operation. -/

theorem specialResult_add : SpecialResult cfg false [a, b] (dInf a ∧ dInf b ∧ dSign a ≠ dSign b)
    (dInf a = true ∨ dInf b = true) (if dInf a then dSign a else dSign b) (doubleReference cfg .add mode a b c).1
    (doubleReference cfg .add mode a b c).2 := by
  refine .of_number (clear := false) rfl dresult_add (fun h => ?invalid) (fun _ hvalid hinf => ?infinite)
    (Bool.bne_false _).symm
  case invalid =>
    exact ⟨any_two.mpr ⟨dNaN_of_dInf h.1, dNaN_of_dInf h.2.1⟩, dAdd_invalid (by simpa using h)⟩
  case infinite =>
    simpa using dAdd_infinite (mode := mode) (a := flush cfg a) (b := flush cfg b) (by simpa using hvalid)
      (by simpa using hinf)

theorem specialResult_sub : SpecialResult cfg false [a, b] (dInf a ∧ dInf b ∧ dSign a = dSign b)
    (dInf a = true ∨ dInf b = true) (if dInf a then dSign a else !dSign b) (doubleReference cfg .sub mode a b c).1
    (doubleReference cfg .sub mode a b c).2 := by
  refine .of_number (clear := false) rfl dresult_sub (fun h => ?invalid) (fun _ hvalid hinf => ?infinite)
    (Bool.bne_false _).symm
  case invalid =>
    exact ⟨any_two.mpr ⟨dNaN_of_dInf h.1, dNaN_of_dInf h.2.1⟩, dAdd_invalid (by simpa [dInf_dNeg, dSign_dNeg] using h)⟩
  case infinite =>
    simpa [dInf_dNeg, dSign_dNeg] using dAdd_infinite (mode := mode) (a := flush cfg a) (b := dNeg (flush cfg b))
      (by simpa [dInf_dNeg, dSign_dNeg] using hvalid) (by simpa [dInf_dNeg] using hinf)

theorem specialResult_mul : SpecialResult cfg false [a, b] (InvalidProduct cfg a b) (dInf a = true ∨ dInf b = true)
    (dSign a != dSign b) (doubleReference cfg .mul mode a b c).1 (doubleReference cfg .mul mode a b c).2 := by
  refine .of_number (clear := false) rfl dresult_mul (fun h => ?invalid) (fun _ hvalid hinf => ?infinite)
    (Bool.bne_false _).symm
  case invalid => exact ⟨any_two.mpr h.notNaN, dMul_invalid (timesZero_flush_iff.mpr h)⟩
  case infinite => simpa using dMul_infinite (mode := mode) (mt timesZero_flush_iff.mp hvalid) (by simpa using hinf)

/-- A product plus a term `c`, which the operation adds as `u`: itself or with its sign inverted, `t`, its denormal
made zero. -/
theorem SpecialResult.of_dMadd {clear neg : Bool} {t u : Dword} (hin : doubleInputs op a b c = [a, b, c])
    (hr : ([a, b, c].map (flush cfg)).any dNaN = false →
      dresult cfg op mode (flush cfg a) (flush cfg b) (flush cfg c) = dMadd mode (flush cfg a) (flush cfg b) u)
    (ht : dInf c = dInf t) (hinfu : dInf u = dInf t) (hsign : dSign u = dSign t)
    (hneg : neg = ((if dInf a || dInf b then dSign a != dSign b else dSign t) != clear)) :
    SpecialResult cfg clear [a, b, c] (dNaN c = false ∧ InvalidSum cfg a b t)
      (dInf a = true ∨ dInf b = true ∨ dInf c = true) neg (negating clear (doubleReference cfg op mode a b c).1)
      (doubleReference cfg op mode a b c).2 := by
  refine .of_number hin hr (fun h => ?invalid) (fun hn hvalid hinf => ?infinite) hneg
  case invalid =>
    obtain ⟨hc, h⟩ := h
    obtain ⟨⟨ha, hb⟩, hi⟩ := dMadd_invalid (mode := mode) h u hinfu hsign
    exact ⟨any_three.mpr ⟨ha, hb, hc⟩, hi⟩
  case infinite =>
    obtain ⟨ha, hb, hc⟩ := any_three.mp hn
    exact dMadd_flush_infinite hinfu hsign ha hb (fun h => hvalid ⟨hc, h⟩) (ht ▸ hinf)

theorem specialResult_madd {clear neg : Bool}
    (hneg : neg = ((if dInf a || dInf b then dSign a != dSign b else dSign c) != clear)) :
    SpecialResult cfg clear [a, b, c] (dNaN c = false ∧ InvalidSum cfg a b c)
      (dInf a = true ∨ dInf b = true ∨ dInf c = true) neg (negating clear (doubleReference cfg .madd mode a b c).1)
      (doubleReference cfg .madd mode a b c).2 :=
  .of_dMadd rfl dresult_madd rfl (dInf_flush cfg c) (dSign_flush cfg c) hneg

theorem specialResult_msub {clear neg : Bool}
    (hneg : neg = ((if dInf a || dInf b then dSign a != dSign b else !dSign c) != clear)) :
    SpecialResult cfg clear [a, b, c]
      (dNaN c = false ∧ (InvalidProduct cfg a b ∨ InfiniteProduct a b ∧ dInf c ∧ (dSign a != dSign b) = dSign c))
      (dInf a = true ∨ dInf b = true ∨ dInf c = true) neg (negating clear (doubleReference cfg .msub mode a b c).1)
      (doubleReference cfg .msub mode a b c).2 := by
  have h : SpecialResult cfg clear [a, b, c] (dNaN c = false ∧ InvalidSum cfg a b (dNeg c))
      (dInf a = true ∨ dInf b = true ∨ dInf c = true) neg (negating clear (doubleReference cfg .msub mode a b c).1)
      (doubleReference cfg .msub mode a b c).2 :=
    .of_dMadd rfl dresult_msub (dInf_dNeg c).symm (by rw [dInf_dNeg, dInf_dNeg, dInf_flush])
      (by rw [dSign_dNeg, dSign_dNeg, dSign_flush]) (by rwa [dSign_dNeg])
  rwa [InvalidSum, dInf_dNeg, dSign_dNeg, Bool.ne_not] at h

end

theorem DoubleSlices.of_doubleArith_reference {i : Instr} {s : State} {op : DoubleOp} {post : Dword → Dword} {rt : Reg}
    {a b c : Quad} {P : Nat → Dword → DoubleFlags → Prop} (href : s.cfg.fpDoubleRef = true)
    (he : exec i s = s.doubleArith op post rt a b c)
    (h : ∀ k, P k (post (doubleReference s.cfg op (roundMode s.fpscr k) (dword a k) (dword b k) (dword c k)).1)
      (doubleReference s.cfg op (roundMode s.fpscr k) (dword a k) (dword b k) (dword c k)).2) :
    DoubleSlices i s rt P := by
  refine .of_doubleArith he fun k _ => ?_
  rw [fpDouble, if_pos href]
  exact h k

/-- Settles O49: each operation by the special results of its sum, product or product plus a term. -/
theorem doubleSpecialOperands : Obligations.DoubleSpecialOperands := by
  intro s rt ra rb href
  exact ⟨.of_doubleArith_reference href (exec_dfa rt ra rb s) fun _ => specialResult_add,
    .of_doubleArith_reference href (exec_dfs rt ra rb s) fun _ => specialResult_sub,
    .of_doubleArith_reference href (exec_dfm rt ra rb s) fun _ => specialResult_mul,
    .of_doubleArith_reference href (exec_dfma rt ra rb s) fun _ =>
      specialResult_madd (clear := false) (Bool.bne_false _).symm,
    .of_doubleArith_reference href (exec_dfms rt ra rb s) fun _ =>
      specialResult_msub (clear := false) (Bool.bne_false _).symm,
    .of_doubleArith_reference href (exec_dfnms rt ra rb s) fun _ =>
      specialResult_msub (clear := true) (Bool.bne_true _).symm,
    .of_doubleArith_reference href (exec_dfnma rt ra rb s) fun _ =>
      specialResult_madd (clear := true) (Bool.bne_true _).symm⟩

/- Format conversions. -/

/-- The words of a register put together from doublewords that are two words each. -/
theorem words_ofDwords (x y : Nat → Word) {k : Nat} (hk : k < 2) :
    word (ofDwords fun k => x k ++ y k) (2 * k) = x k ∧ word (ofDwords fun k => x k ++ y k) (2 * k + 1) = y k := by
  have hleft := word_of_dword (ofDwords fun k => x k ++ y k) 0 k hk (by decide)
  have hright := word_of_dword (ofDwords fun k => x k ++ y k) 1 k hk (by decide)
  rw [dword_ofDwords _ k hk] at hleft hright
  exact ⟨hleft.symm.trans (extract_high _ _),
    hright.symm.trans ((extract_low _ _ (by decide)).trans (extract_all _))⟩

/-- Settles O50: slice by slice, `extendToDouble` and `roundToSingle`. -/
theorem formatConversionsExtendAndRound : Obligations.FormatConversionsExtendAndRound := by
  intro s rt ra
  refine ⟨.of_writeFlags (exec_fesd rt ra s) fun k _ => extendToDouble_spec s.cfg _,
    .of_writeFlags (exec_frds rt ra s) ⟨_, rfl, fun k hk => ?_⟩⟩
  obtain ⟨hleft, hright⟩ := words_ofDwords
    (fun k => (roundToSingle s.cfg (roundMode s.fpscr k) (dword (s.reg ra) k)).1) (fun _ => 0#32) hk
  exact ⟨hright, roundToSingle_spec s.cfg _ _ _ _ rfl rfl _ _ (Prod.ext hleft.symm rfl)⟩

/- Compares and tests. -/

theorem State.ifDpCompare_of_having {s : State} (h : s.cfg.hasDpCompare = true) (i : Instr) (r : Result) :
    s.ifDpCompare i r = r := if_pos h

/-- An optional compare, by what its comparison says of doubles that are no NaN. -/
theorem ComparesDoubles.of_doubleCompare {i : Instr} {s : State} {rt ra rb : Reg} {c : Dword → Dword → Bool}
    {cmp : Dword → Dword → Prop} (hdp : s.cfg.hasDpCompare = true)
    (he : exec i s = s.ifDpCompare i (s.doubleCompare c rt (s.reg ra) (s.reg rb)))
    (h : ∀ a b, dNaN a = false → dNaN b = false → (c a b = true ↔ cmp a b)) : ComparesDoubles i s rt ra rb cmp := by
  refine .of_writeFlags (he.trans (State.ifDpCompare_of_having hdp i _)) ⟨_, rfl, fun k hk => ?_⟩
  rw [dword_ofDwords _ k hk]
  generalize dword (s.reg ra) k = a, dword (s.reg rb) k = b
  refine ⟨fun hnan => ?nan, fun hnum => ?number⟩
  case nan =>
    have hn : (dNaN a || dNaN b) = true := by rwa [Bool.or_eq_true]
    rw [hn]
    exact ⟨rfl, rfl⟩
  case number =>
    rw [not_or, Bool.not_eq_true, Bool.not_eq_true] at hnum
    obtain ⟨ha, hb⟩ := hnum
    rw [ha, hb]
    exact ⟨rfl, fun hc => if_pos ((h a b ha hb).mpr hc), fun hc => if_neg (mt (h a b ha hb).mp hc)⟩

theorem doubleSize_eq_iff {a b : Dword} (ha : dNaN a = false) (hb : dNaN b = false) :
    dMag a = dMag b ↔ doubleSize a = doubleSize b := by
  rw [le_antisymm_iff, le_antisymm_iff, ← not_lt, ← not_lt, ← not_lt, ← not_lt, doubleSize_lt_iff ha hb,
    doubleSize_lt_iff hb ha]

theorem doubleOrder_eq_iff {a b : Dword} (ha : dNaN a = false) (hb : dNaN b = false) :
    dValue a = dValue b ↔ doubleOrder a = doubleOrder b := by
  rw [le_antisymm_iff, le_antisymm_iff, ← not_lt, ← not_lt, ← not_lt, ← not_lt, doubleOrder_lt_iff ha hb,
    doubleOrder_lt_iff hb ha]

/-- Settles O51: the integers compared are ordered as the values, or magnitudes, are. -/
theorem doubleComparesCompareValues : Obligations.DoubleComparesCompareValues := by
  intro s rt ra rb hdp
  exact ⟨.of_doubleCompare hdp (exec_dfceq rt ra rb s) fun _ _ ha hb => beq_iff_eq.trans (doubleOrder_eq_iff ha hb),
    .of_doubleCompare hdp (exec_dfcmeq rt ra rb s) fun _ _ ha hb => beq_iff_eq.trans (doubleSize_eq_iff ha hb),
    .of_doubleCompare hdp (exec_dfcgt rt ra rb s) fun _ _ ha hb =>
      decide_eq_true_iff.trans (doubleOrder_lt_iff hb ha).symm,
    .of_doubleCompare hdp (exec_dfcmgt rt ra rb s) fun _ _ ha hb =>
      decide_eq_true_iff.trans (doubleSize_lt_iff hb ha).symm⟩

/-- Settles O52: `specialValue` is the disjunction of the selected classes. -/
theorem testSpecialValueSelectsClasses : Obligations.TestSpecialValueSelectsClasses := by
  intro s rt ra i7 hdp
  refine .of_write ((exec_dftsv rt ra i7 s).trans (State.ifDpCompare_of_having hdp _ _)) fun k hk => ?_
  rw [dword_ofDwords _ k hk]
  refine truth_eq_ite ?_
  simp only [specialValue, dNaN, dInf, dZero, dDenormal, dSign, dExp, dFrac, Bool.or_eq_true, Bool.and_eq_true,
    beq_iff_eq, bne_iff_ne, Bool.not_eq_eq_eq_not,
    Bool.not_true, Bool.not_eq_true, ne_eq, or_assoc, and_comm, and_left_comm]

end Sys2Proof.Machine
end

section
/-!
PROOFS. The statements about control and channels (spec/48_control_channel.md): what each form of a stop, of a
synchronisation and of a special-purpose register does to the state, and what the channel operations answer where the
channel is invalid, ready or without capacity (`State.readChannel_cases`, `State.writeChannel_cases`).
-/

namespace Sys2Proof.Machine

/- Stops. -/

/-- Stopping behind the instruction: the frame is that of stopping at it, with pc at the next instruction. -/
theorem State.advance_stopWith_frame (s : State) (ev : StopEvent) : StopFrame s.nextPc ev s (s.advance.stopWith ev) :=
  have h := s.advance.stopWith_frame ev
  ⟨h.pc, h.run, h.regs, h.fpscr, h.free, h.bytes, h.ie, h.spr, h.chan, h.wait,
    ⟨h.env.lslr, h.env.extCond, h.env.devices, h.env.cfg⟩, h.srr0, h.srr0Pending, h.dataHist, h.fetchHist⟩

/-- Settles O54: both are a stop behind the instruction. -/
theorem stopEndsTheRunPrecisely : Obligations.StopEndsTheRunPrecisely := by
  intro s sig rt ra rb
  exact ⟨⟨_, exec_stop sig s, s.advance_stopWith_frame _⟩, ⟨_, exec_stopd rt ra rb s, s.advance_stopWith_frame _⟩⟩

/- Synchronisation. -/

theorem exec_sync_eq (c : Bool) (s : State) :
    exec (.sync c) s = .next (if c then s.syncC else s.fetchSync).advance := rfl

/-- Settles O55: `dsync` empties one history; `sync` both, and with C = 1 it is `sync.c`, which first brings the
pending SRR0 into force. -/
theorem synchronisationEmptiesWhatIsPending : Obligations.SynchronisationEmptiesWhatIsPending := by
  intro s c
  constructor
  case left =>
    exact ⟨_, exec_dsync_eq s, rfl, rfl, fun _ => rfl, rfl, fun _ => rfl, rfl, ⟨rfl, rfl, rfl, rfl, rfl, rfl, rfl⟩,
      ⟨rfl, rfl, rfl, rfl⟩, rfl⟩
  case right =>
    refine ⟨_, exec_sync_eq c s, ?_⟩
    cases c with
    | false =>
      exact ⟨rfl, rfl, fun _ => rfl, rfl, fun _ => rfl, rfl, ⟨rfl, rfl, rfl, rfl⟩, rfl, rfl, rfl, rfl, rfl, rfl, nofun,
        fun _ => ⟨rfl, rfl⟩⟩
    | true =>
      have hpc : s.syncC.advance.pc = s.nextPc := by simp
      refine ⟨rfl, rfl, fun r => ?_, hpc, fun a => ?_, ?_, ⟨?_, ?_, ?_, ?_⟩, ?_, ?_, ?_, ?_, ?_, ?_, fun _ => ⟨?_, ?_⟩,
        nofun⟩ <;> simp

/- Special-purpose registers. -/

/-- An entry of a table of 128 that a write to another entry leaves as it was. -/
theorem getElem_set_of_ne {α : Type} (v : Vector α 128) {j k : BitVec 7} (h : k ≠ j) (x : α) :
    (v.set j.toNat x)[k.toNat] = v[k.toNat] :=
  Vector.getElem_set_ne _ _ fun e => h (BitVec.eq_of_toNat_eq e.symm)

section
variable {s : State} {sa : BitVec 7}

theorem State.readSpr_undefined (h : s.spr[sa.toNat] = none) : s.readSpr sa = 0#128 := by
  rw [State.readSpr, h]

theorem State.readSpr_full {v : Quad} (h : s.spr[sa.toNat] = some (.full v)) : s.readSpr sa = v := by
  rw [State.readSpr, h]

theorem State.readSpr_narrow {v : Word} (h : s.spr[sa.toNat] = some (.narrow v)) : s.readSpr sa = prefQuad v := by
  rw [State.readSpr, h]

theorem State.writeSpr_undefined (h : s.spr[sa.toNat] = none) (q : Quad) : (s.writeSpr sa q).spr = s.spr := by
  rw [State.writeSpr, h]

theorem State.writeSpr_full {v : Quad} (h : s.spr[sa.toNat] = some (.full v)) (q : Quad) :
    (s.writeSpr sa q).spr[sa.toNat] = some (.full q) := by
  rw [State.writeSpr, h]
  exact Vector.getElem_set_self _

theorem State.writeSpr_narrow {v : Word} (h : s.spr[sa.toNat] = some (.narrow v)) (q : Quad) :
    (s.writeSpr sa q).spr[sa.toNat] = some (.narrow (pref q)) := by
  rw [State.writeSpr, h]
  exact Vector.getElem_set_self _

theorem State.writeSpr_other {r : BitVec 7} (h : r ≠ sa) (q : Quad) :
    (s.writeSpr sa q).spr[r.toNat] = s.spr[r.toNat] := by
  unfold State.writeSpr
  split
  · exact getElem_set_of_ne _ h _
  · exact getElem_set_of_ne _ h _
  · rfl

end

/-- Settles O56: `mfspr` writes what the register reads as, `mtspr` replaces the value of a defined register by one of
its width. -/
theorem specialPurposeRegistersAreCopied : Obligations.SpecialPurposeRegistersAreCopied := by
  intro s rt sa
  constructor
  case left =>
    refine .of_write (exec_mfspr rt sa s) ⟨State.readSpr_undefined, fun _ => State.readSpr_full, fun v h => ?_⟩
    rw [State.readSpr_narrow h]
    exact ⟨pref_prefQuad v, word_prefQuad v⟩
  case right =>
    refine ⟨_, exec_mtspr sa rt s, fun r => ?_, fun h => State.writeSpr_undefined h _,
      fun _ h => State.writeSpr_full h _, fun _ h => State.writeSpr_narrow h _, fun _ h => State.writeSpr_other h _,
      ?_, fun a => ?_, ⟨?_, ?_, ?_, ?_⟩, ⟨?_, ?_⟩, ?_, ?_, ?_, ?_, ?_, ?_, ?_⟩ <;> simp

/- Invalid channels. -/

theorem State.readChannel_invalid {s : State} {ca : BitVec 7}
    (h : ca = wrSrr0 ∨ ca ≠ rdSrr0 ∧ ∀ c, s.chan[ca.toNat] = some c → c.dir = .write) (rt : Reg) :
    s.readChannel rt ca = s.stopWith (.invalidChannel s.pc ca) := by
  rcases s.readChannel_cases rt ca with ⟨hr, -⟩ | ⟨-, e⟩ | ⟨c, -, -, -, -, hw, hc, hd, -⟩ | ⟨c, -, hw, hc, hd, -⟩
  · rcases h with rfl | ⟨hne, -⟩
    · exact absurd hr (by decide)
    · exact absurd hr hne
  · exact e
  · simp [(h.resolve_left hw).2 c hc] at hd
  · simp [(h.resolve_left hw).2 c hc] at hd

theorem State.writeChannel_invalid {s : State} {ca : BitVec 7}
    (h : ca = rdSrr0 ∨ ca ≠ wrSrr0 ∧ ∀ c, s.chan[ca.toNat] = some c → c.dir = .read) (rt : Reg) :
    s.writeChannel ca rt = s.stopWith (.invalidChannel s.pc ca) := by
  rcases s.writeChannel_cases ca rt with ⟨hw, -⟩ | ⟨-, e⟩ | ⟨c, -, hr, -, hc, hd, -⟩ | ⟨c, hr, -, hc, hd, -⟩
  · rcases h with rfl | ⟨hne, -⟩
    · exact absurd hw (by decide)
    · exact absurd hw hne
  · exact e
  · simp [(h.resolve_left hr).2 c hc] at hd
  · simp [(h.resolve_left hr).2 c hc] at hd

/-- `rdch` is `readChannel`. -/
theorem exec_rdch_next {s t : State} {rt : Reg} {ca : BitVec 7} (h : s.readChannel rt ca = t) :
    exec (.rdch rt ca) s = .next t := congrArg Host.Outcome.next h

/-- `wrch` is `writeChannel`. -/
theorem exec_wrch_next {s t : State} {ca : BitVec 7} {rt : Reg} (h : s.writeChannel ca rt = t) :
    exec (.wrch ca rt) s = .next t := congrArg Host.Outcome.next h

/-- Settles O59: each is the stop of an invalid channel. -/
theorem invalidChannelsStop : Obligations.InvalidChannelsStop := by
  intro s rt ca
  exact ⟨fun h => ⟨_, exec_rdch_next (State.readChannel_invalid h rt), s.stopWith_frame _⟩,
    fun h => ⟨_, exec_wrch_next (State.writeChannel_invalid h rt), s.stopWith_frame _⟩⟩

/- Channels other than those of SRR0. -/

/-- From `s` to `t` a channel instruction on `ca` has completed and left that channel as `c`; pc is at the next
instruction. -/
structure ChannelMoves (ca : BitVec 7) (c : Channel) (s t : State) : Prop where
  frame : ChannelFrame ca s t
  pc : t.pc = (s.pc + 4#32) &&& s.lslr
  free : t.free = s.free
  srr0Pending : t.srr0Pending = s.srr0Pending
  chan : t.chan[ca.toNat] = some c

theorem channelMoves_setChan (s : State) (ca : BitVec 7) (c : Channel) :
    ChannelMoves ca c s { s with chan := s.chan.set ca.toNat (some c) }.channelDone where
  frame := ⟨fun _ h => getElem_set_of_ne _ h _, rfl, fun _ => rfl, rfl, rfl, rfl, rfl, rfl, ⟨rfl, rfl, rfl, rfl⟩,
    ⟨rfl, rfl⟩⟩
  pc := rfl
  free := rfl
  srr0Pending := rfl
  chan := Vector.getElem_set_self _

/-- Of what `ChannelMoves` says a write of a register changes nothing. -/
theorem ChannelMoves.setReg {s b : State} {ca : BitVec 7} {c : Channel} (h : ChannelMoves ca c s b.channelDone)
    (rt : Reg) (v : Quad) : ChannelMoves ca c s (b.setReg rt v).channelDone where
  frame :=
    have hf := h.frame
    ⟨hf.chan, hf.fpscr, hf.bytes, hf.ie, hf.spr, hf.run, hf.wait, hf.srr0,
      ⟨hf.env.lslr, hf.env.extCond, hf.env.devices, hf.env.cfg⟩, ⟨hf.hist.dataHist, hf.hist.fetchHist⟩⟩
  pc := h.pc
  free := h.free
  srr0Pending := h.srr0Pending
  chan := h.chan

section
variable {s : State} {ca : BitVec 7} {c : Channel} {n : Nat} (hw : ca ≠ wrSrr0) (hr : ca ≠ rdSrr0)
  (hc : s.chan[ca.toNat] = some c)
include hw hr hc

/-- A read channel that holds a datum: the oldest one goes into the register (R480). -/
theorem State.readChannel_moves {d : Quad} {ds : List Quad} (hd : c.dir = .read) (hn : c.count = n + 1)
    (hq : c.queue = d :: ds) (rt : Reg) :
    ChannelMoves ca { c with count := n, queue := ds } s (s.readChannel rt ca) ∧
      SameRegsBut rt s (s.readChannel rt ca) ∧ (s.readChannel rt ca).reg rt = c.width.narrow d := by
  have e : s.readChannel rt ca = ({ s with chan := s.chan.set ca.toNat (some { c with
      count := n, queue := ds }) }.setReg rt (c.width.narrow d)).channelDone := by
    simp only [State.readChannel, if_neg hr, if_neg hw, hc, hd, hn, hq]
  rw [e]
  exact ⟨(channelMoves_setChan s ca _).setReg rt _, fun r h => State.reg_setReg_ne _ rt r _ h,
    State.reg_setReg_self _ rt _⟩

/-- A write channel with room: the value of the register goes behind the data in flight (R482). -/
theorem State.writeChannel_moves (hd : c.dir = .write) (hn : c.count = n + 1) (rt : Reg) :
    ChannelMoves ca { c with count := n, queue := c.queue ++ [c.width.narrow (s.reg rt)] } s (s.writeChannel ca rt) ∧
      SameRegs s (s.writeChannel ca rt) := by
  have e : s.writeChannel ca rt = { s with chan := s.chan.set ca.toNat (some { c with
      count := n, queue := c.queue ++ [c.width.narrow (s.reg rt)] }) }.channelDone := by
    simp only [State.writeChannel, if_neg hr, if_neg hw, hc, hd, hn]
  rw [e]
  exact ⟨channelMoves_setChan s ca _, fun _ => rfl⟩

/-- Without capacity the instruction waits (R479). -/
theorem State.readChannel_waits (hd : c.dir = .read) (hn : c.count = 0) (rt : Reg) :
    s.readChannel rt ca = s.block (.read rt ca) := by
  simp only [State.readChannel, if_neg hr, if_neg hw, hc, hd, hn]

theorem State.writeChannel_waits (hd : c.dir = .write) (hn : c.count = 0) (rt : Reg) :
    s.writeChannel ca rt = s.block (.write ca rt) := by
  simp only [State.writeChannel, if_neg hr, if_neg hw, hc, hd, hn]

end

/- Counts and data. -/

theorem State.channelCount_srr0 {ca : BitVec 7} (h : ca = wrSrr0 ∨ ca = rdSrr0) (s : State) : s.channelCount ca = 1 :=
  if_pos h

section
variable {s : State} {ca : BitVec 7} (hw : ca ≠ wrSrr0) (hr : ca ≠ rdSrr0)
include hw hr

theorem State.channelCount_none (hc : s.chan[ca.toNat] = none) : s.channelCount ca = 0 := by
  rw [State.channelCount, if_neg (not_or.mpr ⟨hw, hr⟩), hc]

theorem State.channelCount_some {c : Channel} (hc : s.chan[ca.toNat] = some c) : s.channelCount ca = c.count := by
  rw [State.channelCount, if_neg (not_or.mpr ⟨hw, hr⟩), hc]

end

theorem Width.narrow_w128 {w : Width} (h : w = .w128) (v : Quad) : w.narrow v = v := by rw [h, Width.narrow]

theorem Width.narrow_w32 {w : Width} (h : w = .w32) (v : Quad) :
    pref (w.narrow v) = pref v ∧ ∀ j, 0 < j → j < 4 → word (w.narrow v) j = 0#32 := by
  rw [h, Width.narrow]
  exact ⟨pref_prefQuad _, word_prefQuad _⟩

/-- `rdch` on SRR0's channel never waits: it reads SRR0 as it is seen (R483). -/
theorem exec_rdch_rdSrr0 (s : State) (rt : Reg) :
    exec (.rdch rt 15#7) s = .next (s.sawSrr0.setReg rt (prefQuad s.srr0Value)).channelDone := rfl

/-- Settles O57: the count as `channelCount` reads it, SRR0 as it is seen, and the moves of the other channels. -/
theorem channelsCountAndMoveData : Obligations.ChannelsCountAndMoveData := by
  refine ⟨fun s rt ca => ?count, fun s rt => ?srr0, fun s rt ca c hw hr hc => ⟨?read, ?write⟩⟩
  case count =>
    refine .of_write (exec_rchcnt rt ca s) ⟨word_prefQuad _, ?_⟩
    rw [pref_prefQuad]
    exact ⟨fun h => by rw [State.channelCount_srr0 h], fun hw hr hc => by rw [State.channelCount_none hw hr hc],
      fun hw hr c hc => by rw [State.channelCount_some hw hr hc]⟩
  case srr0 =>
    refine ⟨_, exec_rdch_rdSrr0 s rt, fun r h => ?regs, ?frame, ?chan, ?pc, ?pending, ?value⟩
    case regs => rw [State.channelDone_reg, State.reg_setReg_ne _ _ _ _ h, State.sawSrr0_reg]
    case frame =>
      refine ⟨fun _ _ => ?_, ?_, fun a => ?_, ?_, ?_, ?_, ?_, ?_, ⟨?_, ?_, ?_, ?_⟩, ⟨?_, ?_⟩⟩ <;> simp
    case chan => simp
    case pc => simp [State.nextPc]
    case pending => simp
    case value =>
      rw [State.channelDone_reg, State.reg_setReg_self, pref_prefQuad]
      exact ⟨word_prefQuad _, fun h => ⟨State.srr0Value_of_settled h, by simp [h]⟩⟩
  case read =>
    intro n d ds hd hn hq
    obtain ⟨hmoves, hregs, hvalue⟩ := State.readChannel_moves hw hr hc hd hn hq rt
    exact ⟨_, exec_rdch_next rfl, hregs, hmoves.frame, hmoves.pc, hmoves.free, hmoves.srr0Pending, hmoves.chan,
      fun h => hvalue.trans (Width.narrow_w128 h d), fun h => hvalue ▸ Width.narrow_w32 h d⟩
  case write =>
    intro n hd hn
    obtain ⟨hmoves, hregs⟩ := State.writeChannel_moves hw hr hc hd hn rt
    exact ⟨_, _, exec_wrch_next rfl, hregs, hmoves.frame, hmoves.pc, hmoves.free, hmoves.srr0Pending, hmoves.chan,
      fun h => Width.narrow_w128 h _, fun h => Width.narrow_w32 h _⟩

/- Waiting. -/

/-- While a channel instruction waits no interrupt is due (R479, R500). -/
theorem State.not_interruptDue_of_wait {s : State} (h : s.wait ≠ none) : s.interruptDue = false :=
  Bool.eq_false_iff.mpr fun hd => h (s.interruptDue_iff.mp hd).2.2.2

theorem State.runInstruction_of_wait {s : State} {w : ChannelWait} (hr : s.run = .running) (hw : s.wait = some w) :
    s.runInstruction = .next (s.retry w) := by
  simp only [State.runInstruction, hr, hw]

/-- Without devices a step in which an instruction waits is that instruction, tried again. -/
theorem step_of_wait {s : State} {w : ChannelWait} (hdev : s.devices = []) (hr : s.run = .running)
    (hw : s.wait = some w) : step s = .next (s.retry w) := by
  have hdue : s.interruptDue = false := State.not_interruptDue_of_wait (by simp [hw])
  rw [step_of_no_devices hdev, hdue, if_neg Bool.false_ne_true, State.runInstruction_of_wait hr hw]

/-- An instruction that waits, and waits when it is tried again, leaves each further step as it is. -/
theorem step_block {s : State} {w : ChannelWait} (hdev : s.devices = []) (hr : s.run = .running)
    (h : (s.block w).retry w = s.block w) : step (s.block w) = .next (s.block w) :=
  (step_of_wait (s := s.block w) hdev hr rfl).trans (congrArg _ h)

/-- With devices it is that instruction, tried again in the state their acts leave. -/
theorem step_of_wait_devices {s t u : State} {w : ChannelWait} (hearly : s.dropTurn.applyActs s.turn.early = .ok t)
    (ht : t.wait ≠ none) (hlate : t.applyActs s.turn.late = .ok u) (hr : u.run = .running) (hw : u.wait = some w) :
    step s = .next (u.retry w) := by
  rw [step_of_early hearly, State.runBoundary_of_not_due (State.not_interruptDue_of_wait ht) hlate,
    State.runInstruction_of_wait hr hw]

/-- Settles O58: the wait is recorded and found again by each step; tried again with capacity the instruction moves its
datum. -/
theorem channelInstructionsWaitForCapacity : Obligations.ChannelInstructionsWaitForCapacity := by
  refine ⟨fun s rt ca c hw hr hc hn hrun hdev => ⟨fun hd => ?readWaits, fun hd => ?writeWaits⟩,
    fun s t u rt ca hearly ht hlate hrun => ⟨step_of_wait_devices hearly ht hlate hrun,
      step_of_wait_devices hearly ht hlate hrun⟩,
    fun s rt ca c n hw hr hc hn hrun hdev => ⟨fun d ds hwait hd hq => ?readMoves, fun hwait hd => ?writeMoves⟩⟩
  case readWaits =>
    have hagain := State.readChannel_waits (s := s.block (.read rt ca)) hw hr hc hd hn rt
    exact ⟨_, exec_rdch_next (State.readChannel_waits hw hr hc hd hn rt), rfl, step_block hdev hrun hagain⟩
  case writeWaits =>
    have hagain := State.writeChannel_waits (s := s.block (.write ca rt)) hw hr hc hd hn rt
    exact ⟨_, exec_wrch_next (State.writeChannel_waits hw hr hc hd hn rt), rfl, step_block hdev hrun hagain⟩
  case readMoves =>
    obtain ⟨hmoves, hregs, hvalue⟩ := State.readChannel_moves hw hr hc hd hn hq rt
    exact ⟨_, step_of_wait hdev hrun hwait, hmoves.frame.wait, hmoves.pc, hregs, hmoves.frame, hmoves.srr0Pending,
      hmoves.free, hmoves.chan, hvalue⟩
  case writeMoves =>
    obtain ⟨hmoves, hregs⟩ := State.writeChannel_moves hw hr hc hd hn rt
    exact ⟨_, step_of_wait hdev hrun hwait, hmoves.frame.wait, hmoves.pc, hregs, hmoves.frame, hmoves.srr0Pending,
      hmoves.free, hmoves.chan⟩

end Sys2Proof.Machine
end

section
/-!
PROOFS. The statements about the interrupt (spec/60_exceptions.md): the entry with and without a value pending for
SRR0, and the return to the instruction it saved.
-/

namespace Sys2Proof.Machine

/- The entry. -/

theorem State.takeInterrupt_of_settled {s : State} (h : s.srr0Pending = none) :
    s.takeInterrupt = { s with srr0 := s.pc, ie := false, pc := 0#32 } := by
  rw [State.takeInterrupt, h]

theorem State.takeInterrupt_of_pending {s : State} {v : Word} (h : s.srr0Pending = some v) :
    s.takeInterrupt = { s with
      srr0 := s.pc, srr0Pending := some (Config.freeWord s.free), free := s.free + 1, ie := false, pc := 0#32 } := by
  rw [State.takeInterrupt, h]

/-- Settles O10, for an SRR0 that is settled and for one that is pending. -/
theorem interruptEntrySavesPc : Obligations.InterruptEntrySavesPc := by
  intro s
  match h : s.srr0Pending with
  | none =>
    rw [State.takeInterrupt_of_settled h]
    exact ⟨rfl, rfl, rfl, fun _ => rfl, fun _ => rfl, rfl, ⟨rfl, rfl, rfl, rfl⟩, ⟨rfl, rfl⟩, rfl, rfl, rfl, rfl,
      fun _ => ⟨h, rfl⟩, fun hne => absurd rfl hne⟩
  | some v =>
    rw [State.takeInterrupt_of_pending h]
    exact ⟨rfl, rfl, rfl, fun _ => rfl, fun _ => rfl, rfl, ⟨rfl, rfl, rfl, rfl⟩, ⟨rfl, rfl⟩, rfl, rfl, rfl, rfl,
      nofun, fun _ => nofun⟩

/- The return. -/

/-- A mask that holds every bit of a value leaves the value. -/
theorem and_eq_self_of_and_not {w : Nat} {x m : BitVec w} (h : x &&& ~~~m = 0#w) : x &&& m = x := by
  calc x &&& m = x &&& m ||| x &&& ~~~m := by rw [h, BitVec.or_zero]
    _ = x := by rw [← BitVec.and_or_distrib_left]; simp

/-- The mask of an indirect branch leaves an aligned address within LSLR. -/
theorem indTarget_of_ok {lslr pc : Word} (haligned : pc &&& 3#32 = 0#32) (hinside : pc &&& ~~~lslr = 0#32) :
    indTarget lslr pc = pc := by
  rw [indTarget, and_eq_self_of_and_not hinside]
  exact and_eq_self_of_and_not haligned

/-- Settles O12: the entry saves pc in SRR0, where `iret` finds it (O41); the masks leave it as it is. -/
theorem iretResumesTheInterruptedProgram : Obligations.IretResumesTheInterruptedProgram := by
  intro s ra hsettled hie haligned hinside
  rw [State.takeInterrupt_of_settled hsettled]
  obtain ⟨t, a, ht, hseen, hregs, hframe⟩ :=
    iretGoesToSrr0 { s with srr0 := s.pc, ie := false, pc := 0#32 } ra false true rfl
  obtain ⟨rfl, -⟩ := hseen hsettled
  obtain ⟨hlslr, hext, hdev, hcfg⟩ := hframe.env
  obtain ⟨hdata, hfetch⟩ := hframe.hist
  exact ⟨t, ht, hframe.pc.trans (indTarget_of_ok haligned hinside), hframe.ie, hframe.srr0, hregs, hframe.bytes,
    hframe.fpscr, ⟨hlslr, hext, hdev, hcfg⟩, ⟨hdata, hfetch⟩, hframe.run⟩

end Sys2Proof.Machine
end
